-- ==== Sys2Proof/Word.lean ====
section
/-! DEFINITION. The words of the block: Bit, and the widths of its ports.

`spec/00_scope.md` R7, R11; `spec/10_state.md` R21, R26. A Bit-vector<W> is `BitVec W`, whose
position 0 is the least significant. -/

namespace Sys2Proof

/-- R11: a Bit is "one of {Zero, One}". -/
inductive Bit where
  | zero
  | one
deriving DecidableEq, Repr

/-- The control port `ctl[7:0]` (R21). -/
abbrev Ctl := BitVec 8

/-- The 64-bit ports `a`, `b` and `y` (R21). -/
abbrev Port := BitVec 64

end Sys2Proof
end

