-- ==== Sys2Proof/Syntax.lean ====
section
/-! DEFINITION. The operation set: operations, widths, the 44 instructions, requests and their written lines.

One constructor of `Instr` for each row of `spec/opcode_table.json`, that is for each legal
(operation, width) pair of `spec/30_encoding.md` R62. The operands stand on the ports `a` and `b`
of the request (R55: "no immediate field and no register-number field"), so a constructor carries
none. -/

namespace Sys2Proof

/-- The eleven operations of R56. -/
inductive Op where
  | shl
  | shr
  | rol
  | ror
  | add
  | sub
  | cnt1
  | cnt0
  | rev
  | fenc
  | fdec
deriving DecidableEq, Repr

/-- The five widths of R57 (and R5, `WV`). -/
inductive Width where
  | w4
  | w8
  | w16
  | w32
  | w64
deriving DecidableEq, Repr

/-- W, the number of positions (R57). -/
def Width.bits : Width → Nat
  | .w4 => 4
  | .w8 => 8
  | .w16 => 16
  | .w32 => 32
  | .w64 => 64

/-- The 44 legal (operation, width) pairs of R62, in the order of `spec/opcode_table.json`.
The two counts are written `cnt1w8` for `CNT1.8` and so on. -/
inductive Instr where
  | shl4
  | shl8
  | shl16
  | shl32
  | shl64
  | shr4
  | shr8
  | shr16
  | shr32
  | shr64
  | rol4
  | rol8
  | rol16
  | rol32
  | rol64
  | ror4
  | ror8
  | ror16
  | ror32
  | ror64
  | add8
  | add16
  | add32
  | add64
  | sub8
  | sub16
  | sub32
  | sub64
  | cnt1w8
  | cnt1w16
  | cnt1w32
  | cnt1w64
  | cnt0w8
  | cnt0w16
  | cnt0w32
  | cnt0w64
  | rev8
  | rev16
  | rev32
  | rev64
  | fenc32
  | fenc64
  | fdec32
  | fdec64
deriving DecidableEq, Repr

/-- The pair an instruction stands for: the row and the column of the table of R62. -/
def Instr.parts : Instr → Op × Width
  | .shl4 => (.shl, .w4)
  | .shl8 => (.shl, .w8)
  | .shl16 => (.shl, .w16)
  | .shl32 => (.shl, .w32)
  | .shl64 => (.shl, .w64)
  | .shr4 => (.shr, .w4)
  | .shr8 => (.shr, .w8)
  | .shr16 => (.shr, .w16)
  | .shr32 => (.shr, .w32)
  | .shr64 => (.shr, .w64)
  | .rol4 => (.rol, .w4)
  | .rol8 => (.rol, .w8)
  | .rol16 => (.rol, .w16)
  | .rol32 => (.rol, .w32)
  | .rol64 => (.rol, .w64)
  | .ror4 => (.ror, .w4)
  | .ror8 => (.ror, .w8)
  | .ror16 => (.ror, .w16)
  | .ror32 => (.ror, .w32)
  | .ror64 => (.ror, .w64)
  | .add8 => (.add, .w8)
  | .add16 => (.add, .w16)
  | .add32 => (.add, .w32)
  | .add64 => (.add, .w64)
  | .sub8 => (.sub, .w8)
  | .sub16 => (.sub, .w16)
  | .sub32 => (.sub, .w32)
  | .sub64 => (.sub, .w64)
  | .cnt1w8 => (.cnt1, .w8)
  | .cnt1w16 => (.cnt1, .w16)
  | .cnt1w32 => (.cnt1, .w32)
  | .cnt1w64 => (.cnt1, .w64)
  | .cnt0w8 => (.cnt0, .w8)
  | .cnt0w16 => (.cnt0, .w16)
  | .cnt0w32 => (.cnt0, .w32)
  | .cnt0w64 => (.cnt0, .w64)
  | .rev8 => (.rev, .w8)
  | .rev16 => (.rev, .w16)
  | .rev32 => (.rev, .w32)
  | .rev64 => (.rev, .w64)
  | .fenc32 => (.fenc, .w32)
  | .fenc64 => (.fenc, .w64)
  | .fdec32 => (.fdec, .w32)
  | .fdec64 => (.fdec, .w64)

/-- The operation of an instruction. -/
def Instr.op (i : Instr) : Op := i.parts.1

/-- The width of an instruction. -/
def Instr.width (i : Instr) : Width := i.parts.2

/-- W of an instruction, as a number. -/
abbrev Instr.bits (i : Instr) : Nat := i.width.bits

/-- The codes of an illegal request (R64, R65, R125). -/
inductive Illegal where
  | illOp
  | illWidth
deriving DecidableEq, Repr

/-- The request format REQ of R55: the three input ports of one transaction. -/
structure Request where
  ctl : Ctl
  a   : Port
  b   : Port
deriving DecidableEq, Repr

/-- A line of a host's script with its literals (R68): `<OP>.<W> y, a, b`, or `<OP>.<W> y, a` where
`b` is absent. -/
structure Line where
  instr : Instr
  a     : Nat
  b     : Option Nat
deriving DecidableEq, Repr

end Sys2Proof
end

