-- ==== Sys2Proof/Config.lean ====
section
/-! DEFINITION. What the spec fixes for every transaction (R5), and its two open parameters.

No rule of the model reads the open parameters (`spec/92_eei_decisions.md`: "Neither is read by any
rule"); they stand here so that every open value of the spec has a name. Log 8. -/

namespace Sys2Proof

/-- `WV`, the vector widths (R5). -/
def Config.WV : List Width := [.w4, .w8, .w16, .w32, .w64]

/-- `WU`, the unsigned widths (R5). -/
def Config.WU : List Width := [.w8, .w16, .w32, .w64]

/-- `WF`, the float widths (R5). -/
def Config.WF : List Width := [.w32, .w64]

/-- The order in which a harness lays a word into bytes (R43). -/
inductive ByteOrder where
  | leastFirst
  | mostFirst
deriving DecidableEq, Repr, Inhabited

/-- `HOST_BYTE_ORDER`, left OPEN (R43, D15): nothing is known of it and nothing reads it. -/
opaque Config.hostByteOrder : ByteOrder

/-- The implementation's own time for an operation at a width, before the bound of R152. -/
opaque Config.rawLatency : Op → Width → Nat

/-- The implementation's constant of proportionality of R152. -/
opaque Config.latencyPerPosition : Op → Nat

/-- `LATENCY(op, W)`, left OPEN (R152, D14): finite, at most in proportion to W for a given operation,
and a function of the operation and the width alone, so independent of `a` and `b` (R153). -/
def Config.latency (op : Op) (w : Width) : Nat :=
  min (Config.rawLatency op w) (Config.latencyPerPosition op * w.bits)

end Sys2Proof
end

