-- ==== Sys2Proof/WellFormed.lean ====
section
/-! DEFINITION. What makes an (operation, width) pair, an instruction and a written line well formed.

R62 and R63 give the legal widths of each operation; R68 says which literals a line may hold. -/

namespace Sys2Proof

/-- `legal(op)` of R63: the widths of the operation's row in the table of R62. -/
def Op.legal : Op → List Width
  | .shl | .shr | .rol | .ror => Config.WV
  | .add | .sub | .cnt1 | .cnt0 | .rev => Config.WU
  | .fenc | .fdec => Config.WF

/-- A pair is well formed when the operation exists at the width (R62). -/
def legalPair (op : Op) (w : Width) : Bool := op.legal.contains w

/-- An instruction is well formed when its pair is. -/
def Instr.wellFormed (i : Instr) : Bool := legalPair i.op i.width

/-- What an operation reads from port `b` (R60, R61). -/
inductive BPort where
  | operand
  | amount
  | unread
deriving DecidableEq, Repr

/-- R60 and R61: ADD and SUB take an operand from `b`, the four shifter operations an amount, the other
five do not read it. -/
def Op.bPort : Op → BPort
  | .add | .sub => .operand
  | .shl | .shr | .rol | .ror => .amount
  | .cnt1 | .cnt0 | .rev | .fenc | .fdec => .unread

/-- R68: "A literal operand wider than W is an error of the script". -/
def Line.aFits (l : Line) : Bool := decide (l.a < 2 ^ l.instr.bits)

/-- R68: a binary line has a third operand, at most W wide for ADD and SUB; the amount of a shift or a
rotation is a number the 64 wires of `b` can carry (R61); a unary line has no third operand. -/
def Line.bFits (l : Line) : Bool :=
  match l.instr.op.bPort, l.b with
  | .operand, some n => decide (n < 2 ^ l.instr.bits)
  | .amount, some k => decide (k < 2 ^ 64)
  | .unread, none => true
  | _, _ => false

/-- A line that the host may present as a request. -/
def Line.wellFormed (l : Line) : Bool := l.instr.wellFormed && l.aFits && l.bFits

end Sys2Proof
end

