-- ==== Sys2Proof/Decode.lean ====
section
/-! DEFINITION. The decoder of R63, total on the 256 control words, and the encoder.

The encoding of an instruction is the control word `ctl[7:0]` alone (R55, R62); the operands are on the
other ports. The decoder goes by the fields `op` and `wsel` (R56, R57, R63). The encoder is written from
the cells of the table of R62, so that their agreement says something. -/

namespace Sys2Proof

/-- The `op` field, `ctl[7:4]` (R55). -/
def opField (ctl : Ctl) : Nat := (ctl.extractLsb' 4 4).toNat

/-- The `wsel` field, `ctl[3:0]` (R55). -/
def wselField (ctl : Ctl) : Nat := (ctl.extractLsb' 0 4).toNat

/-- The operation a value of `op` selects; 0x0 and 0xC to 0xF select nothing (R56). -/
def opOfCode : Nat → Option Op
  | 1 => some .shl
  | 2 => some .shr
  | 3 => some .rol
  | 4 => some .ror
  | 5 => some .add
  | 6 => some .sub
  | 7 => some .cnt1
  | 8 => some .cnt0
  | 9 => some .rev
  | 10 => some .fenc
  | 11 => some .fdec
  | _ => none

/-- The width a value of `wsel` selects; 0x5 to 0xF select none (R57). -/
def widthOfCode : Nat → Option Width
  | 0 => some .w4
  | 1 => some .w8
  | 2 => some .w16
  | 3 => some .w32
  | 4 => some .w64
  | _ => none

/-- The instruction of an operation at a width, where the operation has that width (R62). -/
def instrAt : Op → Width → Option Instr
  | .shl, .w4 => some .shl4
  | .shl, .w8 => some .shl8
  | .shl, .w16 => some .shl16
  | .shl, .w32 => some .shl32
  | .shl, .w64 => some .shl64
  | .shr, .w4 => some .shr4
  | .shr, .w8 => some .shr8
  | .shr, .w16 => some .shr16
  | .shr, .w32 => some .shr32
  | .shr, .w64 => some .shr64
  | .rol, .w4 => some .rol4
  | .rol, .w8 => some .rol8
  | .rol, .w16 => some .rol16
  | .rol, .w32 => some .rol32
  | .rol, .w64 => some .rol64
  | .ror, .w4 => some .ror4
  | .ror, .w8 => some .ror8
  | .ror, .w16 => some .ror16
  | .ror, .w32 => some .ror32
  | .ror, .w64 => some .ror64
  | .add, .w8 => some .add8
  | .add, .w16 => some .add16
  | .add, .w32 => some .add32
  | .add, .w64 => some .add64
  | .add, .w4 => none
  | .sub, .w8 => some .sub8
  | .sub, .w16 => some .sub16
  | .sub, .w32 => some .sub32
  | .sub, .w64 => some .sub64
  | .sub, .w4 => none
  | .cnt1, .w8 => some .cnt1w8
  | .cnt1, .w16 => some .cnt1w16
  | .cnt1, .w32 => some .cnt1w32
  | .cnt1, .w64 => some .cnt1w64
  | .cnt1, .w4 => none
  | .cnt0, .w8 => some .cnt0w8
  | .cnt0, .w16 => some .cnt0w16
  | .cnt0, .w32 => some .cnt0w32
  | .cnt0, .w64 => some .cnt0w64
  | .cnt0, .w4 => none
  | .rev, .w8 => some .rev8
  | .rev, .w16 => some .rev16
  | .rev, .w32 => some .rev32
  | .rev, .w64 => some .rev64
  | .rev, .w4 => none
  | .fenc, .w32 => some .fenc32
  | .fenc, .w64 => some .fenc64
  | .fenc, .w4 => none
  | .fenc, .w8 => none
  | .fenc, .w16 => none
  | .fdec, .w32 => some .fdec32
  | .fdec, .w64 => some .fdec64
  | .fdec, .w4 => none
  | .fdec, .w8 => none
  | .fdec, .w16 => none

/-- R63: a reserved `op` is ILL_OP whatever the width is; then a width that is reserved, or that the
operation does not have, is ILL_WIDTH; every other control word is its instruction. -/
def decode (ctl : Ctl) : Except Illegal Instr :=
  match opOfCode (opField ctl) with
  | none => .error .illOp
  | some op =>
    match widthOfCode (wselField ctl) with
    | none => .error .illWidth
    | some w =>
      match instrAt op w with
      | none => .error .illWidth
      | some i => .ok i

/-- The control word of an instruction: its cell of the table of R62. -/
def encode : Instr → Ctl
  | .shl4 => 0x10
  | .shl8 => 0x11
  | .shl16 => 0x12
  | .shl32 => 0x13
  | .shl64 => 0x14
  | .shr4 => 0x20
  | .shr8 => 0x21
  | .shr16 => 0x22
  | .shr32 => 0x23
  | .shr64 => 0x24
  | .rol4 => 0x30
  | .rol8 => 0x31
  | .rol16 => 0x32
  | .rol32 => 0x33
  | .rol64 => 0x34
  | .ror4 => 0x40
  | .ror8 => 0x41
  | .ror16 => 0x42
  | .ror32 => 0x43
  | .ror64 => 0x44
  | .add8 => 0x51
  | .add16 => 0x52
  | .add32 => 0x53
  | .add64 => 0x54
  | .sub8 => 0x61
  | .sub16 => 0x62
  | .sub32 => 0x63
  | .sub64 => 0x64
  | .cnt1w8 => 0x71
  | .cnt1w16 => 0x72
  | .cnt1w32 => 0x73
  | .cnt1w64 => 0x74
  | .cnt0w8 => 0x81
  | .cnt0w16 => 0x82
  | .cnt0w32 => 0x83
  | .cnt0w64 => 0x84
  | .rev8 => 0x91
  | .rev16 => 0x92
  | .rev32 => 0x93
  | .rev64 => 0x94
  | .fenc32 => 0xA3
  | .fenc64 => 0xA4
  | .fdec32 => 0xB3
  | .fdec64 => 0xB4

/-- The instruction read from a word of the opcode table: its low eight bits are the control word, and
the table gives an instruction no other bits (R55, R67; log 4). -/
def decodeTableWord (nbits w : Nat) : Option Instr :=
  match decode (BitVec.ofNat 8 (w % 2 ^ nbits)) with
  | .ok i => some i
  | .error _ => none

end Sys2Proof
end

