-- ==== Sys2Proof/Machine/State.lean ====
section
/-! DEFINITION. The state of the machine: the ports of one transaction, and the reasons a step stops.

The block itself keeps nothing (`spec/10_state.md` R20). What a step of the model reads and writes is the
port bundle of R21: the request the host holds on `ctl`, `a`, `b`, and the response the block has given
to it. Log 1. -/

namespace Sys2Proof.Machine

/-- R34: a response is `Ok (y : 64 bits)` or `Illegal code`; an illegal one has no `y` (R126). -/
inductive Response where
  | ok (y : Port)
  | illegal (code : Illegal)
deriving DecidableEq, Repr

/-- The ports of R21. The output ports `st` and `y` are `rsp`: absent as long as the block has given no
response to the request on the input ports (R145: nothing may be read from `st` and `y` then). -/
structure State where
  ctl : Ctl
  a   : Port
  b   : Port
  rsp : Option Response
deriving DecidableEq, Repr

/-- Why a transaction yields no result. Both are safe: the model stops where the block answers a status
and no result (R126; log 5). -/
inductive Fault where
  /-- Raised by `step` for a reserved `op` field (R64), status 1 of R125. Safe. -/
  | illOp
  /-- Raised by `step` for a defined `op` with a reserved width or one that the operation lacks (R65),
  status 2 of R125. Safe. -/
  | illWidth
deriving DecidableEq, Repr

/-- Why the model gives an instruction no meaning. -/
inductive Refusal where
  /-- Raised by an arm of `exec` for an instruction without a meaning yet; no arm raises it. Safe. -/
  | notModelled (mnemonic : String)
deriving DecidableEq, Repr

/-- What one step answers. -/
abbrev Result := Host.Outcome State Fault Refusal

/-- After reset: no request has been presented and no response given. The spec gives the ports no reset
value (R33, R145); the all Zero input ports are DESIGN CHOICE, log 2, and the absent response is log 3. -/
def State.reset : State := { ctl := 0, a := 0, b := 0, rsp := none }

/-- The request on the input ports. -/
def State.request (s : State) : Request := { ctl := s.ctl, a := s.a, b := s.b }

end Sys2Proof.Machine
end

