-- ==== Sys2Proof/Machine/Flags.lean ====
section
/-! DEFINITION. The status port. The block has no flags (`spec/10_state.md` R23); the only indication beside
the result is the 2-bit status of `spec/60_exceptions.md` R125. -/

namespace Sys2Proof.Machine

/-- R125: ILL_OP is 1, ILL_WIDTH is 2. -/
def statusOf : Illegal → BitVec 2
  | .illOp => 1
  | .illWidth => 2

/-- R125: the status of a response; OK is 0, and 3 is never produced. -/
def Response.st : Response → BitVec 2
  | .ok _ => 0
  | .illegal c => statusOf c

/-- R126: the result of a response; an illegal one has none. -/
def Response.y? : Response → Option Port
  | .ok y => some y
  | .illegal _ => none

/-- The port `st[1:0]`, where a response has been given. -/
def State.st (s : State) : Option (BitVec 2) := s.rsp.map Response.st

/-- The port `y[63:0]`, where a response has been given and it has a result. -/
def State.y (s : State) : Option Port := s.rsp.bind Response.y?

/-- The fault a code is reported as (R64, R65). -/
def faultOf : Illegal → Fault
  | .illOp => .illOp
  | .illWidth => .illWidth

/-- The code a fault stands for. -/
def Fault.code : Fault → Illegal
  | .illOp => .illOp
  | .illWidth => .illWidth

end Sys2Proof.Machine
end

