-- ==== Sys2Proof/Machine/Bits.lean ====
section
/-! DEFINITION. The Bit algebra and the operators on vectors of `spec/00_scope.md` sections 4 and 5.

The tables of AND, OR, XOR, NOT, NAND, NOR and XNOR are the spec's own (G1, general knowledge): PRESUMED,
log 10. So is the signed reading `sval` (G2). -/

namespace Sys2Proof

/-- R18: the isomorphism Zero to False, One to True, onto the predicate value. -/
def Bit.toBool : Bit → Bool
  | .zero => false
  | .one => true

/-- R18: the isomorphism False to Zero, True to One. -/
def Bit.ofBool : Bool → Bit
  | false => .zero
  | true => .one

/-- R9: Zero is read as 0 and One as 1. -/
def Bit.toNat : Bit → Nat
  | .zero => 0
  | .one => 1

/-- R11: the total order Zero < One, as a test. -/
def Bit.lt : Bit → Bit → Bool
  | .zero, .one => true
  | .zero, .zero | .one, .zero | .one, .one => false

/-- R12. -/
def Bit.and : Bit → Bit → Bit
  | .zero, .zero => .zero
  | .zero, .one => .zero
  | .one, .zero => .zero
  | .one, .one => .one

/-- R13. -/
def Bit.or : Bit → Bit → Bit
  | .zero, .zero => .zero
  | .zero, .one => .one
  | .one, .zero => .one
  | .one, .one => .one

/-- R14. -/
def Bit.xor : Bit → Bit → Bit
  | .zero, .zero => .zero
  | .zero, .one => .one
  | .one, .zero => .one
  | .one, .one => .zero

/-- R15. -/
def Bit.not : Bit → Bit
  | .zero => .one
  | .one => .zero

/-- R16. -/
def Bit.nand (x y : Bit) : Bit := (x.and y).not

/-- R16. -/
def Bit.nor (x y : Bit) : Bit := (x.or y).not

/-- R16. -/
def Bit.xnor (x y : Bit) : Bit := (x.xor y).not

/-- R17: the equality test, a predicate value. -/
def Bit.is : Bit → Bit → Bool
  | .zero, .zero => true
  | .zero, .one => false
  | .one, .zero => false
  | .one, .one => true

/-- R7: `v[i]`, the Bit at index i; index 0 is the least significant. -/
def bit {W : Nat} (v : BitVec W) (i : Nat) : Bit := Bit.ofBool (v.getLsbD i)

/-- The vector of width W whose index i holds `f i`: the loops `for i in 0 .. W-1: Y[i] = ...` of R10. -/
def ofBits : (W : Nat) → (Nat → Bit) → BitVec W
  | 0, _ => 0#0
  | n + 1, f => BitVec.cons (f n).toBool (ofBits n f)

/-- R9: the unsigned value of a vector. -/
def uval {W : Nat} (v : BitVec W) : Nat := v.toNat

/-- R9: the vector of width W with the value of n modulo `2^W`. -/
def vec (W n : Nat) : BitVec W := BitVec.ofNat W n

/-- R29: the two's-complement reading of a vector. -/
def sval {W : Nat} (v : BitVec W) : Int :=
  match bit v (W - 1) with
  | .zero => (uval v : Int)
  | .one => (uval v : Int) - 2 ^ W

/-- R8: `v[hi:lo]`. -/
def slice {W : Nat} (v : BitVec W) (hi lo : Nat) : BitVec (hi - lo + 1) :=
  ofBits (hi - lo + 1) (fun j => bit v (lo + j))

/-- R8: `{x, y}`, with x in the more significant positions. -/
def concat {m n : Nat} (x : BitVec m) (y : BitVec n) : BitVec (m + n) := x ++ y

/-- R8: widening with Zero. -/
def zext {W : Nat} (N : Nat) (v : BitVec W) : BitVec N := v.setWidth N

/-- R8: widening with the top Bit; no operation uses it. -/
def sext {W : Nat} (N : Nat) (v : BitVec W) : BitVec N := v.signExtend N

end Sys2Proof
end

