-- ==== Sys2Proof/Machine/Operands.lean ====
section
/-! DEFINITION. Which wires of the input ports an operation reads, and where its result goes (R58 to R61). -/

namespace Sys2Proof.Machine

/-- R59: `A = a[W-1:0]`; the wires above are not read. -/
def operandA (W : Nat) (s : State) : BitVec W := s.a.setWidth W

/-- R60: `B = b[W-1:0]`, for ADD and SUB. -/
def operandB (W : Nat) (s : State) : BitVec W := s.b.setWidth W

/-- R61: `k = uval(b[63:0])`; all 64 wires are read whatever W is. -/
def amount (s : State) : Nat := uval s.b

/-- R58: `y = zext_64(Y)`. -/
def resultPort {W : Nat} (Y : BitVec W) : Port := zext 64 Y

end Sys2Proof.Machine
end

