-- ==== Sys2Proof/Machine/Ops.lean ====
section
/-! DEFINITION. The operations every transaction is made of: the host presents a request, the block
completes it or raises an illegal status, an implementation's reset abandons it. -/

namespace Sys2Proof.Machine

/-- The host drives the input ports (R21, R149). A response belongs to the transaction that it answers and
is not sticky (R127), so the new request has none yet. -/
def State.present (r : Request) (s : State) : State :=
  { s with ctl := r.ctl, a := r.a, b := r.b, rsp := none }

/-- The block answers the request it holds; the input ports are the host's and stay (R30, R149). -/
def State.answer (r : Response) (s : State) : State := { s with rsp := some r }

/-- An implementation's own reset (R145): it may abandon the transaction in progress and has no other
effect; the response, if any, is no longer to be read. -/
def State.abandon (s : State) : State := { s with rsp := none }

/-- A legal request ends with status OK and its result on `y` (R58, R125). -/
def complete {W : Nat} (Y : BitVec W) (s : State) : Result := .next (s.answer (.ok (resultPort Y)))

/-- `raise Illegal(code)` of R10 and R126, the one exceptional outcome of the block. It saves nothing and
transfers control nowhere (R133), there is no return from it (R134), and "a model treats it as a fault"
(R64). -/
def raiseIllegal (code : Illegal) (_ : State) : Result := .fault (faultOf code)

end Sys2Proof.Machine
end

