-- ==== Sys2Proof/Machine/Adder.lean ====
section
/-! DEFINITION. The ripple-carry adder and the ripple-borrow subtractor: ADD, SUB
(`spec/41_add_sub.md` R90 to R97).

Both ripple at every width (R97, D9). The carry and the borrow exist only inside `addTo` and `subTo`; the
last one is dropped (R23). -/

namespace Sys2Proof.Machine

/-- R91: the full-adder cell, `(a, b, cin)` to `(sum, cout)`. -/
def fullAdder (a b cin : Bit) : Bit × Bit :=
  ((a.xor b).xor cin, ((a.and b).or (a.and cin)).or (b.and cin))

/-- R94: the full-subtractor cell, `(a, b, win)` to `(diff, wout)`. -/
def fullSubtractor (a b win : Bit) : Bit × Bit :=
  ((a.xor b).xor win, (b.and a.not).or (win.and (a.xor b).not))

/-- The first n positions of a ripple computation, `Y[n-1:0]`, and the carry or borrow into position n,
which starts at Zero (R92, R95). -/
def ripple (cell : Bit → Bit → Bit → Bit × Bit) {W : Nat} (A B : BitVec W) : (n : Nat) → BitVec n × Bit
  | 0 => (0#0, .zero)
  | n + 1 =>
    match ripple cell A B n with
    | (Y, c) =>
      match cell (bit A n) (bit B n) c with
      | (y, c') => (BitVec.cons y.toBool Y, c')

/-- R90: the low n positions of the sum, and `c[n]`. -/
def addTo {W : Nat} (A B : BitVec W) (n : Nat) : BitVec n × Bit := ripple fullAdder A B n

/-- R93: the low n positions of the difference, and `w[n]`. -/
def subTo {W : Nat} (A B : BitVec W) (n : Nat) : BitVec n × Bit := ripple fullSubtractor A B n

/-- R90, `ADD_W(A, B)`: all W positions, `c[W]` discarded. -/
def addVec {W : Nat} (A B : BitVec W) : BitVec W := (addTo A B W).1

/-- R93, `SUB_W(A, B)`, A minus B: all W positions, `w[W]` discarded. -/
def subVec {W : Nat} (A B : BitVec W) : BitVec W := (subTo A B W).1

/-- R90 at W = 8. -/
def execAdd8 (s : State) : Result := complete (addVec (operandA 8 s) (operandB 8 s)) s

/-- R90 at W = 16. -/
def execAdd16 (s : State) : Result := complete (addVec (operandA 16 s) (operandB 16 s)) s

/-- R90 at W = 32. -/
def execAdd32 (s : State) : Result := complete (addVec (operandA 32 s) (operandB 32 s)) s

/-- R90 at W = 64. -/
def execAdd64 (s : State) : Result := complete (addVec (operandA 64 s) (operandB 64 s)) s

/-- R93 at W = 8. -/
def execSub8 (s : State) : Result := complete (subVec (operandA 8 s) (operandB 8 s)) s

/-- R93 at W = 16. -/
def execSub16 (s : State) : Result := complete (subVec (operandA 16 s) (operandB 16 s)) s

/-- R93 at W = 32. -/
def execSub32 (s : State) : Result := complete (subVec (operandA 32 s) (operandB 32 s)) s

/-- R93 at W = 64. -/
def execSub64 (s : State) : Result := complete (subVec (operandA 64 s) (operandB 64 s)) s

end Sys2Proof.Machine
end

