-- ==== Sys2Proof/Machine/CountReverse.lean ====
section
/-! DEFINITION. The population-count unit and the bit-reversal unit: CNT1, CNT0, REV
(`spec/42_popcount_reverse.md` R100 to R105). -/

namespace Sys2Proof.Machine

/-- How many of the first n positions of A hold the Bit x: the counting loop of R100 and R101. -/
def countTo {W : Nat} (x : Bit) (A : BitVec W) : Nat → Nat
  | 0 => 0
  | n + 1 => if (bit A n).is x then countTo x A n + 1 else countTo x A n

/-- R100, `CNT1_W(A)`, a 7-bit count (R105). -/
def cnt1Vec {W : Nat} (A : BitVec W) : BitVec 7 := vec 7 (countTo .one A W)

/-- R101, `CNT0_W(A)`, a 7-bit count (R105). -/
def cnt0Vec {W : Nat} (A : BitVec W) : BitVec 7 := vec 7 (countTo .zero A W)

/-- R103, `REV_W(A)`. -/
def revVec {W : Nat} (A : BitVec W) : BitVec W := ofBits W (fun i => bit A (W - 1 - i))

/-- R100 at W = 8. -/
def execCnt1w8 (s : State) : Result := complete (cnt1Vec (operandA 8 s)) s

/-- R100 at W = 16. -/
def execCnt1w16 (s : State) : Result := complete (cnt1Vec (operandA 16 s)) s

/-- R100 at W = 32. -/
def execCnt1w32 (s : State) : Result := complete (cnt1Vec (operandA 32 s)) s

/-- R100 at W = 64. -/
def execCnt1w64 (s : State) : Result := complete (cnt1Vec (operandA 64 s)) s

/-- R101 at W = 8. -/
def execCnt0w8 (s : State) : Result := complete (cnt0Vec (operandA 8 s)) s

/-- R101 at W = 16. -/
def execCnt0w16 (s : State) : Result := complete (cnt0Vec (operandA 16 s)) s

/-- R101 at W = 32. -/
def execCnt0w32 (s : State) : Result := complete (cnt0Vec (operandA 32 s)) s

/-- R101 at W = 64. -/
def execCnt0w64 (s : State) : Result := complete (cnt0Vec (operandA 64 s)) s

/-- R103 at W = 8. -/
def execRev8 (s : State) : Result := complete (revVec (operandA 8 s)) s

/-- R103 at W = 16. -/
def execRev16 (s : State) : Result := complete (revVec (operandA 16 s)) s

/-- R103 at W = 32. -/
def execRev32 (s : State) : Result := complete (revVec (operandA 32 s)) s

/-- R103 at W = 64. -/
def execRev64 (s : State) : Result := complete (revVec (operandA 64 s)) s

end Sys2Proof.Machine
end

