-- ==== Sys2Proof/Machine/Float.lean ====
section
/-! DEFINITION. The IEEE-754 encoder and decoder: FENC, FDEC (`spec/43_ieee754.md` R110 to R113).

Both are "an exact bit reinterpretation": nothing is rounded, canonicalised, quieted or flushed (R113). The
field view of the same file, which neither reads, is in `FieldView.lean`. -/

namespace Sys2Proof.Machine

/-- R110, `FENC_W(A)`. -/
def fencVec {W : Nat} (A : BitVec W) : BitVec W := ofBits W (fun i => bit A i)

/-- R111, `FDEC_W(A)`. -/
def fdecVec {W : Nat} (A : BitVec W) : BitVec W := ofBits W (fun i => bit A i)

/-- R110 at W = 32. -/
def execFenc32 (s : State) : Result := complete (fencVec (operandA 32 s)) s

/-- R110 at W = 64. -/
def execFenc64 (s : State) : Result := complete (fencVec (operandA 64 s)) s

/-- R111 at W = 32. -/
def execFdec32 (s : State) : Result := complete (fdecVec (operandA 32 s)) s

/-- R111 at W = 64. -/
def execFdec64 (s : State) : Result := complete (fdecVec (operandA 64 s)) s

end Sys2Proof.Machine
end

