-- ==== Sys2Proof/Machine/Shifter.lean ====
section
/-! DEFINITION. The bit shifter: SHL, SHR, ROL, ROR (`spec/40_shift_rotate.md` R80 to R84).

The four vector functions are the pseudocode of the rules, generic in W and in the amount k; "left" is
toward the higher index (D17). -/

namespace Sys2Proof.Machine

/-- R80, `SHL_W(A, k)`. -/
def shlVec {W : Nat} (A : BitVec W) (k : Nat) : BitVec W :=
  if W ≤ k then 0 else ofBits W (fun i => if k ≤ i then bit A (i - k) else .zero)

/-- R81, `SHR_W(A, k)`. -/
def shrVec {W : Nat} (A : BitVec W) (k : Nat) : BitVec W :=
  if W ≤ k then 0 else ofBits W (fun i => if i + k ≤ W - 1 then bit A (i + k) else .zero)

/-- R82, `ROL_W(A, k)`, read from the result side as the rule does: `Y[j] = A[(j - r) mod W]`. -/
def rolVec {W : Nat} (A : BitVec W) (k : Nat) : BitVec W :=
  ofBits W (fun j => bit A ((j + (W - k % W)) % W))

/-- R83, `ROR_W(A, k)`. -/
def rorVec {W : Nat} (A : BitVec W) (k : Nat) : BitVec W :=
  ofBits W (fun i => bit A ((i + k % W) % W))

/-- R80 at W = 4. -/
def execShl4 (s : State) : Result := complete (shlVec (operandA 4 s) (amount s)) s

/-- R80 at W = 8. -/
def execShl8 (s : State) : Result := complete (shlVec (operandA 8 s) (amount s)) s

/-- R80 at W = 16. -/
def execShl16 (s : State) : Result := complete (shlVec (operandA 16 s) (amount s)) s

/-- R80 at W = 32. -/
def execShl32 (s : State) : Result := complete (shlVec (operandA 32 s) (amount s)) s

/-- R80 at W = 64. -/
def execShl64 (s : State) : Result := complete (shlVec (operandA 64 s) (amount s)) s

/-- R81 at W = 4. -/
def execShr4 (s : State) : Result := complete (shrVec (operandA 4 s) (amount s)) s

/-- R81 at W = 8. -/
def execShr8 (s : State) : Result := complete (shrVec (operandA 8 s) (amount s)) s

/-- R81 at W = 16. -/
def execShr16 (s : State) : Result := complete (shrVec (operandA 16 s) (amount s)) s

/-- R81 at W = 32. -/
def execShr32 (s : State) : Result := complete (shrVec (operandA 32 s) (amount s)) s

/-- R81 at W = 64. -/
def execShr64 (s : State) : Result := complete (shrVec (operandA 64 s) (amount s)) s

/-- R82 at W = 4. -/
def execRol4 (s : State) : Result := complete (rolVec (operandA 4 s) (amount s)) s

/-- R82 at W = 8. -/
def execRol8 (s : State) : Result := complete (rolVec (operandA 8 s) (amount s)) s

/-- R82 at W = 16. -/
def execRol16 (s : State) : Result := complete (rolVec (operandA 16 s) (amount s)) s

/-- R82 at W = 32. -/
def execRol32 (s : State) : Result := complete (rolVec (operandA 32 s) (amount s)) s

/-- R82 at W = 64. -/
def execRol64 (s : State) : Result := complete (rolVec (operandA 64 s) (amount s)) s

/-- R83 at W = 4. -/
def execRor4 (s : State) : Result := complete (rorVec (operandA 4 s) (amount s)) s

/-- R83 at W = 8. -/
def execRor8 (s : State) : Result := complete (rorVec (operandA 8 s) (amount s)) s

/-- R83 at W = 16. -/
def execRor16 (s : State) : Result := complete (rorVec (operandA 16 s) (amount s)) s

/-- R83 at W = 32. -/
def execRor32 (s : State) : Result := complete (rorVec (operandA 32 s) (amount s)) s

/-- R83 at W = 64. -/
def execRor64 (s : State) : Result := complete (rorVec (operandA 64 s) (amount s)) s

end Sys2Proof.Machine
end

