-- ==== Sys2Proof/Machine/Dispatch.lean ====
section
/-! DEFINITION. One arm per instruction: which meaning a decoded request has. -/

namespace Sys2Proof.Machine

def exec (i : Instr) (s : State) : Host.Outcome State Fault Refusal :=
  match i with
  | .shl4 => Sys2Proof.Machine.execShl4 s
  | .shl8 => Sys2Proof.Machine.execShl8 s
  | .shl16 => Sys2Proof.Machine.execShl16 s
  | .shl32 => Sys2Proof.Machine.execShl32 s
  | .shl64 => Sys2Proof.Machine.execShl64 s
  | .shr4 => Sys2Proof.Machine.execShr4 s
  | .shr8 => Sys2Proof.Machine.execShr8 s
  | .shr16 => Sys2Proof.Machine.execShr16 s
  | .shr32 => Sys2Proof.Machine.execShr32 s
  | .shr64 => Sys2Proof.Machine.execShr64 s
  | .rol4 => Sys2Proof.Machine.execRol4 s
  | .rol8 => Sys2Proof.Machine.execRol8 s
  | .rol16 => Sys2Proof.Machine.execRol16 s
  | .rol32 => Sys2Proof.Machine.execRol32 s
  | .rol64 => Sys2Proof.Machine.execRol64 s
  | .ror4 => Sys2Proof.Machine.execRor4 s
  | .ror8 => Sys2Proof.Machine.execRor8 s
  | .ror16 => Sys2Proof.Machine.execRor16 s
  | .ror32 => Sys2Proof.Machine.execRor32 s
  | .ror64 => Sys2Proof.Machine.execRor64 s
  | .add8 => Sys2Proof.Machine.execAdd8 s
  | .add16 => Sys2Proof.Machine.execAdd16 s
  | .add32 => Sys2Proof.Machine.execAdd32 s
  | .add64 => Sys2Proof.Machine.execAdd64 s
  | .sub8 => Sys2Proof.Machine.execSub8 s
  | .sub16 => Sys2Proof.Machine.execSub16 s
  | .sub32 => Sys2Proof.Machine.execSub32 s
  | .sub64 => Sys2Proof.Machine.execSub64 s
  | .cnt1w8 => Sys2Proof.Machine.execCnt1w8 s
  | .cnt1w16 => Sys2Proof.Machine.execCnt1w16 s
  | .cnt1w32 => Sys2Proof.Machine.execCnt1w32 s
  | .cnt1w64 => Sys2Proof.Machine.execCnt1w64 s
  | .cnt0w8 => Sys2Proof.Machine.execCnt0w8 s
  | .cnt0w16 => Sys2Proof.Machine.execCnt0w16 s
  | .cnt0w32 => Sys2Proof.Machine.execCnt0w32 s
  | .cnt0w64 => Sys2Proof.Machine.execCnt0w64 s
  | .rev8 => Sys2Proof.Machine.execRev8 s
  | .rev16 => Sys2Proof.Machine.execRev16 s
  | .rev32 => Sys2Proof.Machine.execRev32 s
  | .rev64 => Sys2Proof.Machine.execRev64 s
  | .fenc32 => Sys2Proof.Machine.execFenc32 s
  | .fenc64 => Sys2Proof.Machine.execFenc64 s
  | .fdec32 => Sys2Proof.Machine.execFdec32 s
  | .fdec64 => Sys2Proof.Machine.execFdec64 s

end Sys2Proof.Machine
end

