-- ==== Sys2Proof/Machine/Step.lean ====
section
/-! DEFINITION. One step: the transaction of the request on the input ports (R21, R45, R63). -/

namespace Sys2Proof.Machine

/-- R63: decode `ctl`; an illegal control word ends the transaction, every other is its operation. -/
def step (s : State) : Host.Outcome State Fault Refusal :=
  match decode s.ctl with
  | .ok i => exec i s
  | .error code => raiseIllegal code s

/-- The host presents the instruction w on the control port and leaves the operand ports as they are. The
block fetches nothing (R22): its next transaction is the request on its ports. Log 6. -/
def State.withFetchWord (s : State) (nbits w : Nat) : State :=
  s.present { ctl := BitVec.ofNat 8 (w % 2 ^ nbits), a := s.a, b := s.b }

end Sys2Proof.Machine
end

