-- ==== Sys2Proof/Machine/FieldView.lean ====
section
/-! DEFINITION. The IEEE-754 field view of `spec/43_ieee754.md` section 2 (R114 to R118): what number a
pattern stands for.

"These are definitions for the reader and the test bench" (R115): no operation reads them and no port
carries them. The spec marks the layout, the classes and the values as general knowledge (G3, G4):
PRESUMED, log 11. -/

namespace Sys2Proof.Machine

/-- R114: a binary interchange format, E exponent bits and F fraction bits. -/
structure FloatFormat where
  E : Nat
  F : Nat
deriving DecidableEq, Repr

/-- R114: binary32. -/
def binary32 : FloatFormat := { E := 8, F := 23 }

/-- R114: binary64. -/
def binary64 : FloatFormat := { E := 11, F := 52 }

/-- R114: `W = 1 + E + F`. -/
abbrev FloatFormat.bits (φ : FloatFormat) : Nat := 1 + φ.E + φ.F

/-- R114: `bias = 2^(E-1) - 1`. -/
def FloatFormat.bias (φ : FloatFormat) : Nat := 2 ^ (φ.E - 1) - 1

/-- R114: the largest exponent field, `2^E - 1`. -/
def FloatFormat.emaxField (φ : FloatFormat) : Nat := 2 ^ φ.E - 1

/-- R115: the triple `(s, e, f)`: sign, biased exponent, fraction. -/
structure FloatFields where
  s : Bit
  e : Nat
  f : Nat
deriving DecidableEq, Repr

/-- R115: `fields_W(v)`. -/
def FloatFormat.fields (φ : FloatFormat) (v : BitVec φ.bits) : FloatFields :=
  { s := bit v (φ.E + φ.F)
    e := uval (v.extractLsb' φ.F φ.E)
    f := uval (v.extractLsb' 0 φ.F) }

/-- R115: `pack_W(s, e, f)`, the sign in the most significant position. -/
def FloatFormat.pack (φ : FloatFormat) (x : FloatFields) : BitVec φ.bits :=
  concat (concat (vec 1 x.s.toNat) (vec φ.E x.e)) (vec φ.F x.f)

/-- R115: the triples `pack_W` is defined for. -/
def FloatFormat.inRange (φ : FloatFormat) (x : FloatFields) : Bool :=
  decide (x.e < 2 ^ φ.E) && decide (x.f < 2 ^ φ.F)

/-- R116: the five classes. -/
inductive FloatClass where
  | zero
  | subnormal
  | normal
  | infinity
  | nan
deriving DecidableEq, Repr

/-- R116: the class of a pattern, by `(e, f)`. -/
def FloatFormat.classOf (φ : FloatFormat) (v : BitVec φ.bits) : FloatClass :=
  let x := φ.fields v
  if x.e = 0 then (if x.f = 0 then .zero else .subnormal)
  else if x.e = φ.emaxField then (if x.f = 0 then .infinity else .nan)
  else .normal

/-- R117: the quiet bit of a NaN, `v[F-1]`. -/
def FloatFormat.quietBit (φ : FloatFormat) (v : BitVec φ.bits) : Bit := bit v (φ.F - 1)

/-- R117: the payload of a NaN, `v[F-2:0]`. -/
def FloatFormat.payload (φ : FloatFormat) (v : BitVec φ.bits) : Nat := uval (v.extractLsb' 0 (φ.F - 1))

/-- R118: what a pattern stands for. The two zeros are different patterns, equal as numbers. -/
inductive FloatValue where
  | zero (s : Bit)
  | finite (q : Rat)
  | infinity (s : Bit)
  | nan
deriving DecidableEq, Repr

/-- `m * 2^p` exactly, with the sign s. -/
def signedScaled (s : Bit) (m : Nat) (p : Int) : Rat :=
  let q : Rat := if 0 ≤ p then ((m * 2 ^ p.toNat : Nat) : Rat) else mkRat m (2 ^ (-p).toNat)
  match s with
  | .zero => q
  | .one => -q

/-- R118: the represented value, class by class. -/
def FloatFormat.value (φ : FloatFormat) (v : BitVec φ.bits) : FloatValue :=
  let x := φ.fields v
  match φ.classOf v with
  | .zero => .zero x.s
  | .subnormal => .finite (signedScaled x.s x.f (1 - φ.bias - φ.F))
  | .normal => .finite (signedScaled x.s (2 ^ φ.F + x.f) (x.e - φ.bias - φ.F))
  | .infinity => .infinity x.s
  | .nan => .nan

end Sys2Proof.Machine
end

