-- ==== Sys2Proof/Machine/Written.lean ====
section
/-! DEFINITION. The written form of a request (`spec/30_encoding.md` R68) and the request a line stands for.

The spec's own notation; the block neither parses nor prints (R42). -/

namespace Sys2Proof

/-- The mnemonic of an operation (R56). -/
def Op.mnemonic : Op → String
  | .shl => "SHL"
  | .shr => "SHR"
  | .rol => "ROL"
  | .ror => "ROR"
  | .add => "ADD"
  | .sub => "SUB"
  | .cnt1 => "CNT1"
  | .cnt0 => "CNT0"
  | .rev => "REV"
  | .fenc => "FENC"
  | .fdec => "FDEC"

/-- The width as it stands after the dot (R62). -/
def Width.text : Width → String
  | .w4 => "4"
  | .w8 => "8"
  | .w16 => "16"
  | .w32 => "32"
  | .w64 => "64"

/-- R62: mnemonic `<OP>.<W>`. -/
def Instr.mnemonic (i : Instr) : String := i.op.mnemonic ++ "." ++ i.width.text

/-- R68: `<OP>.<W> y, a, b` or `<OP>.<W> y, a`, with decimal literals and the result variable y. -/
def Line.text (l : Line) : String :=
  l.instr.mnemonic ++ " y, " ++ toString l.a ++
    (match l.b with
     | some n => ", " ++ toString n
     | none => "")

/-- R68: the request a line stands for; the wires a literal does not reach are Zero, and a unary line
leaves the whole of `b` Zero (not read, R60; log 7). -/
def Line.request (l : Line) : Request :=
  { ctl := encode l.instr, a := BitVec.ofNat 64 l.a, b := BitVec.ofNat 64 (l.b.getD 0) }

end Sys2Proof
end

