-- ==== Sys2Proof/Machine/Native.lean ====
section
/-! DEFINITION. The same block by word-wide arithmetic: the reference that the bit-level block is compared with.

R32: "the host cannot tell a bit-serial adder from a word-wide one"; R97 lets a model give the two forms and
prove them equal. Here each operation is the machine word's own (Lean's `BitVec`), and the legality of a
control word is looked up in the table of R62 and the ranges of R64 and R65, not decoded. No meaning of the
machine uses this file. -/

namespace Sys2Proof.Machine

/-- The 44 instructions, the rows of the table of R62. -/
def allInstrs : List Instr :=
  [.shl4, .shl8, .shl16, .shl32, .shl64,
   .shr4, .shr8, .shr16, .shr32, .shr64,
   .rol4, .rol8, .rol16, .rol32, .rol64,
   .ror4, .ror8, .ror16, .ror32, .ror64,
   .add8, .add16, .add32, .add64,
   .sub8, .sub16, .sub32, .sub64,
   .cnt1w8, .cnt1w16, .cnt1w32, .cnt1w64,
   .cnt0w8, .cnt0w16, .cnt0w32, .cnt0w64,
   .rev8, .rev16, .rev32, .rev64,
   .fenc32, .fenc64,
   .fdec32, .fdec64]

/-- The result of a legal request, computed on whole words of the width of the instruction. -/
def nativeResult (i : Instr) (a b : Port) : Port :=
  let W := i.bits
  let A : BitVec W := a.setWidth W
  let B : BitVec W := b.setWidth W
  let ones : Nat := (List.range W).countP (fun j => A.getLsbD j)
  match i.op with
  | .shl => if W ≤ b.toNat then 0 else (A <<< b.toNat).setWidth 64
  | .shr => if W ≤ b.toNat then 0 else (A >>> b.toNat).setWidth 64
  | .rol => (A.rotateLeft b.toNat).setWidth 64
  | .ror => (A.rotateRight b.toNat).setWidth 64
  | .add => (A + B).setWidth 64
  | .sub => (A - B).setWidth 64
  | .cnt1 => BitVec.ofNat 64 ones
  | .cnt0 => BitVec.ofNat 64 (W - ones)
  | .rev => A.reverse.setWidth 64
  | .fenc => A.setWidth 64
  | .fdec => A.setWidth 64

/-- The response to any request: the instruction whose control word it has, or the status of R64 or R65. -/
def nativeResponse (r : Request) : Response :=
  match allInstrs.find? (fun i => encode i == r.ctl) with
  | some i => .ok (nativeResult i r.a r.b)
  | none => if r.ctl.toNat < 16 ∨ 192 ≤ r.ctl.toNat then .illegal .illOp else .illegal .illWidth

end Sys2Proof.Machine
end

