-- ==== Sys2Proof/Machine/Transaction.lean ====
section
/-! DEFINITION. Transactions as the host sees them: one request and its response, scripts of requests, and
several instances (`spec/10_state.md` R34, `spec/20_memory.md` R47, `spec/60_exceptions.md` R138).

`step` stops at an illegal request, as R64 says a model does; the block goes on, and so does `transact`:
the illegal status is then the response (R125, R126), and the next transaction is handled as any. Log 5. -/

namespace Sys2Proof.Machine

/-- One transaction: the host presents the request, the block answers, the response can be taken. -/
def transact (r : Request) (s : State) : State :=
  match step (s.present r) with
  | .next s' => s'
  | .fault f => (s.present r).answer (.illegal f.code)
  | .refused _ => s.present r

/-- R34, `Request -> Response`: the response to one request, on a block just reset. -/
def respond (r : Request) : Option Response := (transact r State.reset).rsp

/-- The state after a host's sequence of requests. -/
def afterScript : List Request → State → State
  | [], s => s
  | r :: rs, s => afterScript rs (transact r s)

/-- The responses to a host's sequence of requests, on one instance. -/
def runScript : List Request → State → List (Option Response)
  | [], _ => []
  | r :: rs, s => (transact r s).rsp :: runScript rs (transact r s)

/-- R138: any number of instances, as their states. -/
abbrev Bank := List State

/-- One transaction on instance j of a bank. -/
def Bank.transactAt (j : Nat) (r : Request) (m : Bank) : Bank := m.modify j (transact r)

end Sys2Proof.Machine
end

