-- ==== Sys2Proof/Safety.lean ====
section
/-! DEFINITION. What counts as a safe run, and the invariant of the ports.

`spec/70_reset_and_hazards.md` R147: the one obligation of a host is that a request be well formed in the
sense of R63 if it wants a result. -/

namespace Sys2Proof.Machine

/-- The request is well formed in the sense of R63: its control word decodes. -/
def requestLegal (r : Request) : Bool :=
  match decode r.ctl with
  | .ok _ => true
  | .error _ => false

/-- The next step of this state yields a result. -/
def State.Safe (s : State) : Prop := ∃ s', step s = .next s'

/-- No request of the script ends in a fault ("no fault", 95_test_vectors.md script 4). -/
def faultFree (rs : List Request) : Bool := rs.all requestLegal

/-- The response on the output ports, if there is one, is the one that the request still held on the input
ports has by word-wide arithmetic (R21, R149, R32). -/
def State.Coherent (s : State) : Prop := ∀ r, s.rsp = some r → r = nativeResponse s.request

end Sys2Proof.Machine
end

