-- ==== Sys2Proof/Certificates/Slice0/Obligations.lean ====
section
/-! DEFINITION. The statements for the provers.

Each docstring names the rule or section of spec/ that the statement formalises; OBLIGATIONS.json lists them. -/

open Sys2Proof Sys2Proof.Machine

/-! ### Bits and vectors -/

/-- 00_scope.md section 5: the tables of the Bit algebra, which the spec takes from general knowledge (log 10,
PRESUMED). -/
def Obligations.BitAlgebraIsBoolean : Prop :=
  ∀ x y : Bit,
    (x.and y = .one ↔ x = .one ∧ y = .one) ∧
    (x.or y = .zero ↔ x = .zero ∧ y = .zero) ∧
    (x.xor y = .one ↔ x ≠ y) ∧
    (x.not = .one ↔ x = .zero) ∧
    (x.nand y = .zero ↔ x = .one ∧ y = .one) ∧
    (x.nor y = .one ↔ x = .zero ∧ y = .zero) ∧
    (x.xnor y = .one ↔ x = y) ∧
    (x.lt y = true ↔ x = .zero ∧ y = .one)

/-- 00_scope.md section 5, R17 and R18: the equality test, and the isomorphism with the predicate value. -/
def Obligations.EqualityTestAndPredicateValue : Prop :=
  (∀ x y : Bit, (x.is y = true ↔ x = y) ∧ (x.is y = true ↔ x.xnor y = .one)) ∧
    Bit.zero.toBool = false ∧ Bit.one.toBool = true ∧
    (∀ x : Bit, Bit.ofBool x.toBool = x) ∧ (∀ b : Bool, (Bit.ofBool b).toBool = b)

/-- R9: the unsigned value is the sum of `v[i] * 2^i`; `vec_W(n)` holds bit i of n at index i and is the
inverse, modulo `2^W` for larger n. -/
def Obligations.UnsignedValueIsSumOfBits : Prop :=
  ∀ W : Nat,
    (∀ v : BitVec W, uval v = ((List.range W).map (fun i => (bit v i).toNat * 2 ^ i)).sum ∧
      uval v ≤ 2 ^ W - 1 ∧ vec W (uval v) = v) ∧
    (∀ n i : Nat, i < W → bit (vec W n) i = Bit.ofBool (n.testBit i)) ∧
    (∀ n : Nat, vec W n = vec W (n % 2 ^ W) ∧ uval (vec W n) = n % 2 ^ W)

/-- 00_scope.md section 4, R8: slices, concatenation and the two widenings, index by index. -/
def Obligations.SlicesAndWideningsByIndex : Prop :=
  (∀ (W hi lo : Nat) (v : BitVec W), lo ≤ hi → ∀ j, j < hi - lo + 1 → bit (slice v hi lo) j = bit v (lo + j)) ∧
  (∀ (m n : Nat) (x : BitVec m) (y : BitVec n),
    (∀ j, j < n → bit (concat x y) j = bit y j) ∧ (∀ j, j < m → bit (concat x y) (n + j) = bit x j)) ∧
  (∀ (W N : Nat) (v : BitVec W), W ≤ N →
    (∀ j, j < W → bit (zext N v) j = bit v j ∧ bit (sext N v) j = bit v j) ∧
    (∀ j, W ≤ j → j < N → bit (zext N v) j = .zero ∧ bit (sext N v) j = bit v (W - 1)))

/-! ### Decoding and status -/

/-- 30_encoding.md section 3 and 10_state.md R21: a step decodes the control word on `ctl` and is the meaning of
the decoded instruction, on the state as it is; a control word that does not decode stops it. -/
def Obligations.StepRunsTheDecodedInstruction : Prop :=
  ∀ s : State,
    (∀ i, decode s.ctl = .ok i → step s = exec i s) ∧
    (decode s.ctl = .error .illOp → step s = .fault .illOp) ∧
    (decode s.ctl = .error .illWidth → step s = .fault .illWidth)

/-- The interface of log 6 (DESIGN CHOICE): an instruction's control word, placed by `withFetchWord`, is what the
next step runs, and is what the table's decoder reads. -/
def Obligations.PlacedControlWordIsRun : Prop :=
  ∀ (i : Instr) (s : State) (nbits : Nat), 8 ≤ nbits →
    decodeTableWord nbits (encode i).toNat = some i ∧
    step (s.withFetchWord nbits (encode i).toNat) = exec i (s.withFetchWord nbits (encode i).toNat) ∧
    (s.withFetchWord nbits (encode i).toNat).a = s.a ∧ (s.withFetchWord nbits (encode i).toNat).b = s.b

/-- 30_encoding.md section 3: decoding and encoding agree, in both directions. -/
def Obligations.DecodeAndEncodeAgree : Prop :=
  (∀ i : Instr, i.wellFormed = true ∧ decode (encode i) = .ok i) ∧
  (∀ (ctl : Ctl) (i : Instr), decode ctl = .ok i → encode i = ctl)

/-- R62: one control word of each family, written out from the table. -/
def Obligations.WrittenControlWordsDecode : Prop :=
  decode 0b0001_0000 = .ok .shl4 ∧ decode 0b0010_0001 = .ok .shr8 ∧ decode 0b0011_0010 = .ok .rol16 ∧
  decode 0b0100_0011 = .ok .ror32 ∧ decode 0b0101_0100 = .ok .add64 ∧ decode 0b0110_0001 = .ok .sub8 ∧
  decode 0b0111_0010 = .ok .cnt1w16 ∧ decode 0b1000_0011 = .ok .cnt0w32 ∧ decode 0b1001_0100 = .ok .rev64 ∧
  decode 0b1010_0011 = .ok .fenc32 ∧ decode 0b1011_0100 = .ok .fdec64

/-- R63: the pseudocode of the decoder, with the operations of R56 and the legal widths written out, and the three
counts. -/
def Obligations.DecoderFollowsThePseudocode : Prop :=
  (∀ ctl : Ctl,
    (ctl.toNat / 16 = 0 ∨ 12 ≤ ctl.toNat / 16 → decode ctl = .error .illOp) ∧
    (1 ≤ ctl.toNat / 16 → ctl.toNat / 16 < 12 → 5 ≤ ctl.toNat % 16 → decode ctl = .error .illWidth) ∧
    (1 ≤ ctl.toNat / 16 → ctl.toNat / 16 < 12 → ctl.toNat % 16 < 5 →
      let W := 4 * 2 ^ (ctl.toNat % 16)
      let legal :=
        if ctl.toNat / 16 ≤ 4 then [4, 8, 16, 32, 64] else if ctl.toNat / 16 ≤ 9 then [8, 16, 32, 64] else [32, 64]
      (W ∉ legal → decode ctl = .error .illWidth) ∧
      (W ∈ legal → ∃ i, decode ctl = .ok i ∧ i.bits = W ∧
        [Op.shl, .shr, .rol, .ror, .add, .sub, .cnt1, .cnt0, .rev, .fenc, .fdec][ctl.toNat / 16 - 1]? = some i.op))) ∧
  (List.range 256).countP (fun n => (decode (BitVec.ofNat 8 n)).toOption.isSome) = 44 ∧
  (List.range 256).countP (fun n => decide (decode (BitVec.ofNat 8 n) = .error .illOp)) = 80 ∧
  (List.range 256).countP (fun n => decide (decode (BitVec.ofNat 8 n) = .error .illWidth)) = 132

/-- R64: a reserved `op` is ILL_OP, whatever `wsel`, `a` and `b` are; the transaction yields no result. -/
def Obligations.ReservedOperationIsIllOp : Prop :=
  ∀ s : State, s.ctl.toNat / 16 ∈ [0x0, 0xC, 0xD, 0xE, 0xF] →
    step s = .fault .illOp ∧
    (transact s.request s).st = some 1 ∧ (transact s.request s).y = none ∧
    (s.ctl.toNat ≤ 0x0F ∨ 0xC0 ≤ s.ctl.toNat)

/-- R65: a defined `op` with a reserved width, or with a width the operation lacks, is ILL_WIDTH; that is 132 values. -/
def Obligations.UnavailableWidthIsIllWidth : Prop :=
  (∀ s : State, 1 ≤ s.ctl.toNat / 16 → s.ctl.toNat / 16 ≤ 11 →
    (5 ≤ s.ctl.toNat % 16 ∨
      (s.ctl.toNat / 16 ∈ [5, 6, 7, 8, 9] ∧ s.ctl.toNat % 16 = 0) ∨
      (s.ctl.toNat / 16 ∈ [10, 11] ∧ s.ctl.toNat % 16 ≤ 2)) →
    step s = .fault .illWidth ∧ (transact s.request s).st = some 2 ∧ (transact s.request s).y = none) ∧
  (List.range 256).countP (fun n => decide (decode (BitVec.ofNat 8 n) = .error .illWidth)) = 132

/-- R125: the status port. 0 exactly for a legal request, and then `y` holds its result; 1 exactly for a reserved
`op`; 2 exactly for a defined `op` with a bad width; never 3. R130: a legal request is OK for all values of
`(a, b)`. -/
def Obligations.StatusPortSaysWhy : Prop :=
  ∀ (r : Request) (s : State),
    ((transact r s).st = some 0 ↔ ∃ i, decode r.ctl = .ok i) ∧
    (∀ i, decode r.ctl = .ok i → ∃ y, (transact r s).y = some y ∧ exec i (s.present r) = .next (transact r s)) ∧
    ((transact r s).st = some 1 ↔ r.ctl.toNat / 16 = 0 ∨ 12 ≤ r.ctl.toNat / 16) ∧
    ((transact r s).st = some 2 ↔
      (1 ≤ r.ctl.toNat / 16 ∧ r.ctl.toNat / 16 < 12) ∧ ∀ i, decode r.ctl ≠ .ok i) ∧
    (transact r s).st ≠ some 3 ∧ (transact r s).st ≠ none

/-- R128: exactly one status; `op` is examined first, then the width, the operand values never. -/
def Obligations.OperationIsExaminedFirst : Prop :=
  (∀ (r : Request) (s : State), r.ctl.toNat / 16 = 0 ∨ 12 ≤ r.ctl.toNat / 16 → (transact r s).st = some 1) ∧
  (∀ s : State, (transact ⟨0x0F, s.a, s.b⟩ s).st = some 1 ∧ (transact ⟨0xC9, s.a, s.b⟩ s).st = some 1) ∧
  (∀ (r r' : Request) (s s' : State), r.ctl = r'.ctl → (transact r s).st = (transact r' s').st)

/-- R126: an illegal request has no `y`, changes nothing, and the next transaction is handled as if it had not been
presented. -/
def Obligations.IllegalRequestDoesNoHarm : Prop :=
  ∀ (r r' : Request) (s : State) (c : Illegal), decode r.ctl = .error c →
    step (s.present r) = .fault (faultOf c) ∧
    (transact r s).rsp = some (.illegal c) ∧ (transact r s).y = none ∧
    (transact r s).request = r ∧
    transact r' (transact r s) = transact r' s

/-! ### Operands and results -/

/-- R59, R60: only `a[W-1:0]` is read; ADD and SUB read only `b[W-1:0]`; the shifter reads all of `b`; the other five
read none of it. -/
def Obligations.UnreadWiresHaveNoEffect : Prop :=
  ∀ (i : Instr) (s t : State),
    (∀ j, j < i.bits → bit s.a j = bit t.a j) →
    (i.op ∈ [Op.add, .sub] → ∀ j, j < i.bits → bit s.b j = bit t.b j) →
    (i.op ∈ [Op.shl, .shr, .rol, .ror] → s.b = t.b) →
    ∃ y, exec i s = .next { s with rsp := some (.ok y) } ∧ exec i t = .next { t with rsp := some (.ok y) }

/-- 30_encoding.md section 2, R58: the wires of `y` above the result's own width, W or 7 for the counts, are Zero. -/
def Obligations.ResultIsZeroExtended : Prop :=
  ∀ (i : Instr) (s s' : State), exec i s = .next s' →
    ∃ y, s'.rsp = some (.ok y) ∧
      ∀ j, (if i.op ∈ [Op.cnt1, .cnt0] then 7 else i.bits) ≤ j → bit y j = .zero

/-! ### The bit shifter -/

/-- R80: SHL at its five widths, for every state. -/
def Obligations.ShiftLeftCompletes : Prop :=
  ∀ i ∈ [Instr.shl4, .shl8, .shl16, .shl32, .shl64], ∀ s : State,
    (encode i).toNat / 16 = 1 ∧ 4 * 2 ^ ((encode i).toNat % 16) = i.bits ∧
    ∃ Y : BitVec i.bits, exec i s = .next { s with rsp := some (.ok (Y.setWidth 64)) } ∧
      (i.bits ≤ s.b.toNat → Y = 0) ∧
      (s.b.toNat < i.bits → ∀ j, j < i.bits →
        bit Y j = if s.b.toNat ≤ j then bit s.a (j - s.b.toNat) else .zero)

/-- R81: SHR at its five widths, for every state. -/
def Obligations.ShiftRightCompletes : Prop :=
  ∀ i ∈ [Instr.shr4, .shr8, .shr16, .shr32, .shr64], ∀ s : State,
    (encode i).toNat / 16 = 2 ∧ 4 * 2 ^ ((encode i).toNat % 16) = i.bits ∧
    ∃ Y : BitVec i.bits, exec i s = .next { s with rsp := some (.ok (Y.setWidth 64)) } ∧
      (i.bits ≤ s.b.toNat → Y = 0) ∧
      (s.b.toNat < i.bits → ∀ j, j < i.bits →
        bit Y j = if j + s.b.toNat ≤ i.bits - 1 then bit s.a (j + s.b.toNat) else .zero)

/-- R82: ROL at its five widths, for every state: the Bit at index j moves to index `(j + k mod W) mod W`. -/
def Obligations.RotateLeftCompletes : Prop :=
  ∀ i ∈ [Instr.rol4, .rol8, .rol16, .rol32, .rol64], ∀ s : State,
    (encode i).toNat / 16 = 3 ∧ 4 * 2 ^ ((encode i).toNat % 16) = i.bits ∧
    ∃ Y : BitVec i.bits, exec i s = .next { s with rsp := some (.ok (Y.setWidth 64)) } ∧
      ∀ j, j < i.bits → bit Y ((j + s.b.toNat % i.bits) % i.bits) = bit s.a j

/-- R83: ROR at its five widths, for every state: index j receives the Bit at index `(j + k mod W) mod W`. -/
def Obligations.RotateRightCompletes : Prop :=
  ∀ i ∈ [Instr.ror4, .ror8, .ror16, .ror32, .ror64], ∀ s : State,
    (encode i).toNat / 16 = 4 ∧ 4 * 2 ^ ((encode i).toNat % 16) = i.bits ∧
    ∃ Y : BitVec i.bits, exec i s = .next { s with rsp := some (.ok (Y.setWidth 64)) } ∧
      ∀ j, j < i.bits → bit Y j = bit s.a ((j + s.b.toNat % i.bits) % i.bits)

/-- 40_shift_rotate.md, the sentences marked derived in R80 and R81: the shifts as numbers, for every amount. -/
def Obligations.ShiftsAsNumbers : Prop :=
  (∀ i ∈ [Instr.shl4, .shl8, .shl16, .shl32, .shl64], ∀ s : State,
    exec i s = .next { s with rsp := some (.ok (BitVec.ofNat 64
      (s.a.toNat % 2 ^ i.bits * 2 ^ s.b.toNat % 2 ^ i.bits))) }) ∧
  (∀ i ∈ [Instr.shr4, .shr8, .shr16, .shr32, .shr64], ∀ s : State,
    exec i s = .next { s with rsp := some (.ok (BitVec.ofNat 64
      (s.a.toNat % 2 ^ i.bits / 2 ^ s.b.toNat))) })

/-- 40_shift_rotate.md, laws of the family (a) to (h); (a), (b) and (e) are the source's, the rest are marked
derived in R85. -/
def Obligations.ShifterLaws : Prop :=
  ∀ w ∈ Config.WV, ∀ (x : BitVec w.bits) (k m : Nat),
    (rorVec (rolVec x k) k = x ∧ rolVec (rorVec x k) k = x) ∧
    (rolVec x k = rolVec x (k % w.bits) ∧ rorVec x k = rorVec x (k % w.bits)) ∧
    (rorVec x k = rolVec x (w.bits - k % w.bits) ∧ rolVec x k = rorVec x (w.bits - k % w.bits)) ∧
    (rolVec (rolVec x k) m = rolVec x (k + m) ∧ rorVec (rorVec x k) m = rorVec x (k + m)) ∧
    (w.bits ≤ k → shlVec x k = 0 ∧ shrVec x k = 0) ∧
    (shlVec (shlVec x k) m = shlVec x (k + m) ∧ shrVec (shrVec x k) m = shrVec x (k + m)) ∧
    (0 < k → k < w.bits → ∀ j, j < w.bits →
      bit (rolVec x k) j = (bit (shlVec x k) j).or (bit (shrVec x (w.bits - k)) j)) ∧
    (shlVec x 0 = x ∧ shrVec x 0 = x ∧ rolVec x 0 = x ∧ rorVec x 0 = x)

/-! ### The adder and the subtractor -/

/-- R91 and R94: the two cells, by their equations and by their tables. -/
def Obligations.FullCellsByEquationAndTable : Prop :=
  (∀ a b c : Bit, fullAdder a b c = ((a.xor b).xor c, ((a.and b).or (a.and c)).or (b.and c)) ∧
    fullSubtractor a b c = ((a.xor b).xor c, (b.and a.not).or (c.and (a.xor b).not))) ∧
  fullAdder .zero .zero .zero = (.zero, .zero) ∧ fullAdder .zero .zero .one = (.one, .zero) ∧
  fullAdder .zero .one .zero = (.one, .zero) ∧ fullAdder .zero .one .one = (.zero, .one) ∧
  fullAdder .one .zero .zero = (.one, .zero) ∧ fullAdder .one .zero .one = (.zero, .one) ∧
  fullAdder .one .one .zero = (.zero, .one) ∧ fullAdder .one .one .one = (.one, .one) ∧
  fullSubtractor .zero .zero .zero = (.zero, .zero) ∧ fullSubtractor .zero .zero .one = (.one, .one) ∧
  fullSubtractor .zero .one .zero = (.one, .one) ∧ fullSubtractor .zero .one .one = (.zero, .one) ∧
  fullSubtractor .one .zero .zero = (.one, .zero) ∧ fullSubtractor .one .zero .one = (.zero, .zero) ∧
  fullSubtractor .one .one .zero = (.zero, .zero) ∧ fullSubtractor .one .one .one = (.one, .one)

/-- R90: ADD at its four widths, for every state: the carry chain from Zero, the last carry dropped. -/
def Obligations.AddCompletesByRippleCarry : Prop :=
  ∀ i ∈ [Instr.add8, .add16, .add32, .add64], ∀ s : State,
    (encode i).toNat / 16 = 5 ∧ 4 * 2 ^ ((encode i).toNat % 16) = i.bits ∧
    ∃ (Y : BitVec i.bits) (c : Nat → Bit), exec i s = .next { s with rsp := some (.ok (Y.setWidth 64)) } ∧
      c 0 = .zero ∧
      ∀ j, j < i.bits →
        bit Y j = ((bit s.a j).xor (bit s.b j)).xor (c j) ∧
        c (j + 1) =
          (((bit s.a j).and (bit s.b j)).or ((bit s.a j).and (c j))).or ((bit s.b j).and (c j))

/-- R93: SUB at its four widths, for every state: a minus b, the borrow chain from Zero, the last borrow dropped. -/
def Obligations.SubtractCompletesByRippleBorrow : Prop :=
  ∀ i ∈ [Instr.sub8, .sub16, .sub32, .sub64], ∀ s : State,
    (encode i).toNat / 16 = 6 ∧ 4 * 2 ^ ((encode i).toNat % 16) = i.bits ∧
    ∃ (Y : BitVec i.bits) (w : Nat → Bit), exec i s = .next { s with rsp := some (.ok (Y.setWidth 64)) } ∧
      w 0 = .zero ∧
      ∀ j, j < i.bits →
        bit Y j = ((bit s.a j).xor (bit s.b j)).xor (w j) ∧
        w (j + 1) =
          ((bit s.b j).and (bit s.a j).not).or ((w j).and ((bit s.a j).xor (bit s.b j)).not)

/-- 41_add_sub.md, the sentences marked derived in R90 and R93: after any number of positions the ripple holds the sum
(the difference) of the positions so far, with the carry (the borrow) as the next one's weight. -/
def Obligations.RipplePrefixIsExact : Prop :=
  ∀ (W : Nat) (A B : BitVec W) (n : Nat), n ≤ W →
    uval (addTo A B n).1 + (addTo A B n).2.toNat * 2 ^ n = uval A % 2 ^ n + uval B % 2 ^ n ∧
    (uval (subTo A B n).1 : Int) - (subTo A B n).2.toNat * 2 ^ n =
      ((uval A % 2 ^ n : Nat) : Int) - ((uval B % 2 ^ n : Nat) : Int)

/-- 41_add_sub.md, the sentences marked derived in R90 and R93, and R98 (h): the results as numbers, wrapping modulo
`2^W`. -/
def Obligations.AddAndSubtractAsNumbers : Prop :=
  (∀ i ∈ [Instr.add8, .add16, .add32, .add64], ∀ s : State,
    exec i s = .next { s with rsp := some (.ok (BitVec.ofNat 64
      ((s.a.toNat % 2 ^ i.bits + s.b.toNat % 2 ^ i.bits) % 2 ^ i.bits))) }) ∧
  (∀ i ∈ [Instr.sub8, .sub16, .sub32, .sub64], ∀ s : State,
    exec i s = .next { s with rsp := some (.ok (BitVec.ofInt 64
      (((s.a.toNat % 2 ^ i.bits : Nat) - (s.b.toNat % 2 ^ i.bits : Nat) : Int) % 2 ^ i.bits))) })

/-- 41_add_sub.md, laws of the family (a) to (h); (h) is the source's, the rest are marked derived in R98. -/
def Obligations.AdderLaws : Prop :=
  ∀ w ∈ Config.WU, ∀ x y z : BitVec w.bits,
    addVec x y = addVec y x ∧
    addVec (addVec x y) z = addVec x (addVec y z) ∧
    (addVec x 0 = x ∧ subVec x 0 = x ∧ subVec x x = 0) ∧
    (subVec (addVec x y) y = x ∧ addVec (subVec x y) y = x) ∧
    subVec x y = addVec x (subVec 0 y) ∧
    subVec 0 (subVec 0 x) = x ∧
    subVec x y = addVec (addVec x (ofBits w.bits (fun j => (bit y j).not))) 1 ∧
    (addVec x y = x + y ∧ subVec x y = x - y)

/-- 41_add_sub.md R96 and 10_state.md R29 (general knowledge, log 10): ADD and SUB of two's-complement patterns are
the wrapped sum and difference of their signed values. -/
def Obligations.SignedReadingOfAddAndSubtract : Prop :=
  ∀ w ∈ Config.WU, ∀ x y : BitVec w.bits,
    sval x = x.toInt ∧
    sval (addVec x y) = (sval x + sval y).bmod (2 ^ w.bits) ∧
    sval (subVec x y) = (sval x - sval y).bmod (2 ^ w.bits)

/-! ### The counts and the reversal -/

/-- R100: CNT1 at its four widths, for every state. -/
def Obligations.CountOnesCompletes : Prop :=
  ∀ i ∈ [Instr.cnt1w8, .cnt1w16, .cnt1w32, .cnt1w64], ∀ s : State,
    (encode i).toNat / 16 = 7 ∧ 4 * 2 ^ ((encode i).toNat % 16) = i.bits ∧
    ∃ N, N = (List.range i.bits).countP (fun j => decide (bit s.a j = .one)) ∧ N ≤ i.bits ∧
      exec i s = .next { s with rsp := some (.ok ((vec 7 N).setWidth 64)) } ∧
      ((vec 7 N).setWidth 64).toNat = N

/-- R101: CNT0 at its four widths, for every state; only the W positions of the operand are counted. -/
def Obligations.CountZerosCompletes : Prop :=
  ∀ i ∈ [Instr.cnt0w8, .cnt0w16, .cnt0w32, .cnt0w64], ∀ s : State,
    (encode i).toNat / 16 = 8 ∧ 4 * 2 ^ ((encode i).toNat % 16) = i.bits ∧
    ∃ N, N = (List.range i.bits).countP (fun j => decide (bit s.a j = .zero)) ∧ N ≤ i.bits ∧
      exec i s = .next { s with rsp := some (.ok ((vec 7 N).setWidth 64)) } ∧
      ((vec 7 N).setWidth 64).toNat = N

/-- R102: the two counts of any operand add up to W, and so CNT0 is W less CNT1. -/
def Obligations.CountsAddUpToTheWidth : Prop :=
  ∀ w ∈ Config.WU, ∀ x : BitVec w.bits,
    uval (cnt1Vec x) + uval (cnt0Vec x) = w.bits ∧ cnt0Vec x = vec 7 (w.bits - uval (cnt1Vec x))

/-- R103: REV at its four widths, for every state. -/
def Obligations.ReverseCompletes : Prop :=
  ∀ i ∈ [Instr.rev8, .rev16, .rev32, .rev64], ∀ s : State,
    (encode i).toNat / 16 = 9 ∧ 4 * 2 ^ ((encode i).toNat % 16) = i.bits ∧
    ∃ Y : BitVec i.bits, exec i s = .next { s with rsp := some (.ok (Y.setWidth 64)) } ∧
      ∀ j, j < i.bits → bit Y j = bit s.a (i.bits - 1 - j)

/-- 42_popcount_reverse.md, laws of the family (a) to (f); (a) is the source's, the rest are marked derived in R104. -/
def Obligations.CountAndReversalLaws : Prop :=
  ∀ w ∈ Config.WU, ∀ (x : BitVec w.bits) (k : Nat),
    revVec (revVec x) = x ∧
    (cnt1Vec (revVec x) = cnt1Vec x ∧ cnt0Vec (revVec x) = cnt0Vec x) ∧
    (cnt1Vec (rolVec x k) = cnt1Vec x ∧ cnt1Vec (rorVec x k) = cnt1Vec x) ∧
    (revVec (rolVec x k) = rorVec (revVec x) k ∧ revVec (rorVec x k) = rolVec (revVec x) k) ∧
    (revVec (shlVec x k) = shrVec (revVec x) k ∧ revVec (shrVec x k) = shlVec (revVec x) k) ∧
    (uval (cnt1Vec (shlVec x k)) ≤ uval (cnt1Vec x) ∧ uval (cnt1Vec (shrVec x k)) ≤ uval (cnt1Vec x))

/-! ### The IEEE-754 encoder and decoder -/

/-- R110 and R111: FENC and FDEC at their two widths, for every state: every pattern passes unchanged; at
W = 4, 8 and 16 they are ILL_WIDTH. -/
def Obligations.FloatConversionsComplete : Prop :=
  (∀ c ∈ [0xA0, 0xA1, 0xA2, 0xB0, 0xB1, 0xB2], decode c = .error .illWidth) ∧
  ∀ i ∈ [Instr.fenc32, .fenc64, .fdec32, .fdec64], ∀ s : State,
    (encode i).toNat / 16 = (if i.op = .fenc then 0xA else 0xB) ∧
    4 * 2 ^ ((encode i).toNat % 16) = i.bits ∧
    ∃ Y : BitVec i.bits, exec i s = .next { s with rsp := some (.ok (Y.setWidth 64)) } ∧
      ∀ j, j < i.bits → bit Y j = bit s.a j

/-- R112: the round trip, at the ports: the word that one conversion gives, presented to the other, comes back bit for
bit. -/
def Obligations.FloatRoundTripAtThePorts : Prop :=
  (∀ (x : BitVec 32) (b b' : Port) (s : State),
    ∃ y z, (transact ⟨0xA3, x.setWidth 64, b⟩ s).y = some y ∧
      (transact ⟨0xB3, y, b'⟩ (transact ⟨0xA3, x.setWidth 64, b⟩ s)).y = some (x.setWidth 64) ∧
      (transact ⟨0xB3, x.setWidth 64, b⟩ s).y = some z ∧
      (transact ⟨0xA3, z, b'⟩ (transact ⟨0xB3, x.setWidth 64, b⟩ s)).y = some (x.setWidth 64)) ∧
  (∀ (x b b' : Port) (s : State),
    ∃ y z, (transact ⟨0xA4, x, b⟩ s).y = some y ∧
      (transact ⟨0xB4, y, b'⟩ (transact ⟨0xA4, x, b⟩ s)).y = some x ∧
      (transact ⟨0xB4, x, b⟩ s).y = some z ∧
      (transact ⟨0xA4, z, b'⟩ (transact ⟨0xB4, x, b⟩ s)).y = some x)

/-- 43_ieee754.md section 2, R114 and R115 (general knowledge, log 11): splitting and joining are inverse, and the
value of the word is that of its fields. -/
def Obligations.FloatFieldsSplitAndJoin : Prop :=
  ∀ φ ∈ [binary32, binary64],
    (∀ v : BitVec φ.bits,
      φ.inRange (φ.fields v) = true ∧ φ.pack (φ.fields v) = v ∧
      uval v = (φ.fields v).s.toNat * 2 ^ (φ.E + φ.F) + (φ.fields v).e * 2 ^ φ.F + (φ.fields v).f) ∧
    (∀ x : FloatFields, φ.inRange x = true → φ.fields (φ.pack x) = x)

/-- 43_ieee754.md section 2, R116 (general knowledge, log 11): each class is its condition on `(e, f)`, and every
pattern meets exactly one condition. -/
def Obligations.FloatClassesByFields : Prop :=
  ∀ φ ∈ [binary32, binary64], ∀ v : BitVec φ.bits,
    (φ.classOf v = .zero ↔ (φ.fields v).e = 0 ∧ (φ.fields v).f = 0) ∧
    (φ.classOf v = .subnormal ↔ (φ.fields v).e = 0 ∧ (φ.fields v).f ≠ 0) ∧
    (φ.classOf v = .normal ↔ 1 ≤ (φ.fields v).e ∧ (φ.fields v).e ≤ 2 ^ φ.E - 2) ∧
    (φ.classOf v = .infinity ↔ (φ.fields v).e = 2 ^ φ.E - 1 ∧ (φ.fields v).f = 0) ∧
    (φ.classOf v = .nan ↔ (φ.fields v).e = 2 ^ φ.E - 1 ∧ (φ.fields v).f ≠ 0)

/-- 43_ieee754.md section 2, R118 (general knowledge, log 11): the represented value, class by class. -/
def Obligations.FloatValuesByClass : Prop :=
  ∀ φ ∈ [binary32, binary64], ∀ v : BitVec φ.bits,
    let x := φ.fields v
    let sgn : ℚ := if x.s = .zero then 1 else -1
    (φ.classOf v = .zero → φ.value v = .zero x.s) ∧
    (φ.classOf v = .subnormal →
      φ.value v = .finite (sgn * x.f * 2 ^ ((1 : ℤ) - φ.bias - φ.F))) ∧
    (φ.classOf v = .normal →
      φ.value v = .finite (sgn * (1 + (x.f : ℚ) / 2 ^ φ.F) * 2 ^ ((x.e : ℤ) - φ.bias))) ∧
    (φ.classOf v = .infinity → φ.value v = .infinity x.s) ∧
    (φ.classOf v = .nan → φ.value v = .nan)

/-- 43_ieee754.md section 3, R120 (c) (log 11): a conversion at the ports keeps the fields, the class, the quiet bit,
the payload and the value of the word. -/
def Obligations.FloatConversionsKeepTheFieldView : Prop :=
  (∀ i ∈ [Instr.fenc32, .fdec32], ∀ s : State, ∃ y : Port,
    exec i s = .next { s with rsp := some (.ok y) } ∧
    binary32.fields (y.setWidth 32) = binary32.fields (s.a.setWidth 32) ∧
    binary32.classOf (y.setWidth 32) = binary32.classOf (s.a.setWidth 32) ∧
    binary32.quietBit (y.setWidth 32) = binary32.quietBit (s.a.setWidth 32) ∧
    binary32.payload (y.setWidth 32) = binary32.payload (s.a.setWidth 32) ∧
    binary32.value (y.setWidth 32) = binary32.value (s.a.setWidth 32)) ∧
  (∀ i ∈ [Instr.fenc64, .fdec64], ∀ s : State, ∃ y : Port,
    exec i s = .next { s with rsp := some (.ok y) } ∧
    binary64.fields y = binary64.fields s.a ∧
    binary64.classOf y = binary64.classOf s.a ∧
    binary64.quietBit y = binary64.quietBit s.a ∧
    binary64.payload y = binary64.payload s.a ∧
    binary64.value y = binary64.value s.a)

/-! ### The whole block -/

/-- R21: what a step answers is a function of the request on the ports and of nothing else. -/
def Obligations.StepDependsOnTheRequestAlone : Prop :=
  ∀ s t : State, s.request = t.request → step s = step t

/-- R30: operands are never modified: whatever instruction runs, the input ports stay as the host holds them, and only
the response is written. -/
def Obligations.StepLeavesTheInputPorts : Prop :=
  (∀ (i : Instr) (s s' : State), exec i s = .next s' →
    s'.ctl = s.ctl ∧ s'.a = s.a ∧ s'.b = s.b ∧ ∃ y, s'.rsp = some (.ok y)) ∧
  (∀ s s' : State, step s = .next s' →
    s'.ctl = s.ctl ∧ s'.a = s.a ∧ s'.b = s.b ∧ ∃ y, s'.rsp = some (.ok y))

/-- 20_memory.md section 3, R45 (derived): every request is idempotent: held on the ports, it is answered again with
the same response, in the same state. -/
def Obligations.StepIsIdempotent : Prop :=
  ∀ s s' : State, step s = .next s' → step s' = .next s'

/-- 20_memory.md section 4, R47 (derived): each response of a script is the one its own request has on a block just
reset, whatever came before or comes after. -/
def Obligations.ScriptResponsesAreIndependent : Prop :=
  ∀ (rs : List Request) (s : State), runScript rs s = rs.map respond

/-- R138: instances share no state and cannot signal one another; a bank is independent copies of the one function. -/
def Obligations.InstancesShareNothing : Prop :=
  ∀ (m : Bank) (j : Nat) (r : Request),
    (m.transactAt j r).length = m.length ∧
    (∀ k, k ≠ j → (m.transactAt j r)[k]? = m[k]?) ∧
    (∀ s, m[j]? = some s → ∃ s', (m.transactAt j r)[j]? = some s' ∧ s'.rsp = respond r)

/-- 70_reset_and_hazards.md section 3, R154 (derived), and R34: every request has a response; no step is refused. -/
def Obligations.EveryRequestIsAnswered : Prop :=
  (∀ r : Request, ∃ p, respond r = some p) ∧
  (∀ s : State, (∃ s', step s = .next s') ∨ step s = .fault .illOp ∨ step s = .fault .illWidth)

/-- 70_reset_and_hazards.md section 1, R145: an implementation's reset has no architectural effect: after it the block
answers the request on its ports, and any next one, as it answers any request. -/
def Obligations.AbandoningATransactionHasNoEffect : Prop :=
  ∀ s : State, s.abandon.request = s.request ∧ s.abandon.st = none ∧ s.abandon.y = none ∧
    step s.abandon = step s ∧ ∀ r, transact r s.abandon = transact r s

/-- 10_state.md section 4, R33: the first transaction after reset behaves as every other. The values of the input ports
at reset, and the fault they lead to, are the model's choice (log 2, DESIGN CHOICE). -/
def Obligations.FirstTransactionIsAsEveryOther : Prop :=
  (∀ (r : Request) (s : State), transact r State.reset = transact r s) ∧
  State.reset.st = none ∧ State.reset.y = none ∧
  State.reset.ctl = 0 ∧ State.reset.a = 0 ∧ State.reset.b = 0 ∧ step State.reset = .fault .illOp

/-- 70_reset_and_hazards.md section 1, R147: a request yields a result exactly when it is well formed in the sense of
R63, and a script is free of faults exactly when every response has status OK. -/
def Obligations.SafeExactlyWhenLegal : Prop :=
  (∀ s : State, s.Safe ↔ ∃ i, decode s.ctl = .ok i) ∧
  (∀ (rs : List Request) (s : State),
    faultFree rs = true ↔ ∀ p ∈ runScript rs s, ∃ y, p = some (.ok y))

/-- 40_shift_rotate.md, 41_add_sub.md, 42_popcount_reverse.md (95_test_vectors.md S3, S6): at the ports, feeding the
result back, ROR undoes ROL, SUB undoes ADD and REV undoes REV at every width. -/
def Obligations.ResultsFedBackAreUndone : Prop :=
  (∀ w ∈ [0x0, 0x1, 0x2, 0x3, 0x4], ∀ (a b : Port) (s : State), ∃ y,
    (transact ⟨BitVec.ofNat 8 (0x30 + w), a, b⟩ s).y = some y ∧
    (transact ⟨BitVec.ofNat 8 (0x40 + w), y, b⟩ (transact ⟨BitVec.ofNat 8 (0x30 + w), a, b⟩ s)).y =
      some (BitVec.ofNat 64 (a.toNat % 2 ^ (4 * 2 ^ w)))) ∧
  (∀ w ∈ [0x1, 0x2, 0x3, 0x4], ∀ (a b : Port) (s : State), ∃ y,
    (transact ⟨BitVec.ofNat 8 (0x50 + w), a, b⟩ s).y = some y ∧
    (transact ⟨BitVec.ofNat 8 (0x60 + w), y, b⟩ (transact ⟨BitVec.ofNat 8 (0x50 + w), a, b⟩ s)).y =
      some (BitVec.ofNat 64 (a.toNat % 2 ^ (4 * 2 ^ w)))) ∧
  (∀ w ∈ [0x1, 0x2, 0x3, 0x4], ∀ (a b b' : Port) (s : State), ∃ y,
    (transact ⟨BitVec.ofNat 8 (0x90 + w), a, b⟩ s).y = some y ∧
    (transact ⟨BitVec.ofNat 8 (0x90 + w), y, b'⟩ (transact ⟨BitVec.ofNat 8 (0x90 + w), a, b⟩ s)).y =
      some (BitVec.ofNat 64 (a.toNat % 2 ^ (4 * 2 ^ w))))

/-- 70_reset_and_hazards.md section 3, R152 (OPEN parameter): for a given operation the latency is at most that
operation's own constant of proportionality times W, the same constant at all five widths. That there is such a constant
is the spec's; that it is the free value `Config.latencyPerPosition` is the model's form (log 8, DESIGN CHOICE). It would
not be provable of the uncut `Config.rawLatency`. No rule of the machine reads the latency. -/
def Obligations.LatencyIsAtMostProportionalToTheWidth : Prop :=
  ∀ (op : Op) (w : Width), Config.latency op w ≤ Config.latencyPerPosition op * w.bits

/-! ### Headlines -/

/-- 10_state.md R32 and 41_add_sub.md R97: the bit-level block and the word-wide one answer every request alike, legal
or not, from every state. -/
def Obligations.BitLevelBlockEqualsNativeBlock : Prop :=
  ∀ (r : Request) (s : State),
    transact r s = { ctl := r.ctl, a := r.a, b := r.b, rsp := some (nativeResponse r) }

/-- 10_state.md R21 and 70_reset_and_hazards.md R149: the response on the ports is the one of the request still held on
them, kept by every step, by a whole transaction, by the host's presenting a request and by an abandoned one. -/
def Obligations.StepsKeepTheResponseCoherent : Prop :=
  ∀ s : State, s.Coherent →
    (∀ s', step s = .next s' → s'.Coherent) ∧
    (∀ r, (transact r s).Coherent) ∧ (∀ r, (s.present r).Coherent) ∧ s.abandon.Coherent

/-- 10_state.md section 4: no response has been given at reset, so the response is coherent there. -/
def Obligations.ResetIsCoherent : Prop := State.reset.Coherent

/-- 30_encoding.md section 5, R68: a well-formed written line becomes a request that decodes to its instruction, whose
operand and amount are read back exactly as its literals, whatever their value; and the next step runs it. -/
def Obligations.WrittenLineRunsWithItsLiterals : Prop :=
  ∀ (l : Line) (s : State), l.wellFormed = true →
    decode l.request.ctl = .ok l.instr ∧
    uval (operandA l.instr.bits (s.present l.request)) = l.a ∧
    (l.instr.op.bPort = .operand →
      l.b = some (uval (operandB l.instr.bits (s.present l.request)))) ∧
    (l.instr.op.bPort = .amount → l.b = some (amount (s.present l.request))) ∧
    (l.instr.op.bPort = .unread → l.b = none) ∧
    step (s.present l.request) = exec l.instr (s.present l.request)
end

