-- ==== Sys2Proof/Laws/Bits.lean ====
section
/-! SUPPORT. The Bit algebra in terms of Bool, and vectors read index by index. -/

namespace Sys2Proof

@[simp] theorem Bit.toBool_ofBool (b : Bool) : (Bit.ofBool b).toBool = b := by cases b <;> rfl
@[simp] theorem Bit.ofBool_toBool (x : Bit) : Bit.ofBool x.toBool = x := by cases x <;> rfl
@[simp] theorem Bit.ofBool_inj (a b : Bool) : Bit.ofBool a = Bit.ofBool b ↔ a = b := by
  cases a <;> cases b <;> simp [Bit.ofBool]
@[simp] theorem Bit.toBool_zero : Bit.zero.toBool = false := rfl
@[simp] theorem Bit.toBool_one : Bit.one.toBool = true := rfl
@[simp] theorem Bit.ofBool_false : Bit.ofBool false = .zero := rfl
@[simp] theorem Bit.ofBool_true : Bit.ofBool true = .one := rfl

theorem Bit.toBool_and (x y : Bit) : (x.and y).toBool = (x.toBool && y.toBool) := by cases x <;> cases y <;> rfl
theorem Bit.toBool_or (x y : Bit) : (x.or y).toBool = (x.toBool || y.toBool) := by cases x <;> cases y <;> rfl
theorem Bit.toBool_xor (x y : Bit) : (x.xor y).toBool = (x.toBool ^^ y.toBool) := by cases x <;> cases y <;> rfl
theorem Bit.toBool_not (x : Bit) : x.not.toBool = !x.toBool := by cases x <;> rfl
theorem Bit.toNat_eq (x : Bit) : x.toNat = x.toBool.toNat := by cases x <;> rfl
theorem Bit.is_iff (x y : Bit) : x.is y = true ↔ x = y := by cases x <;> cases y <;> decide

variable {W : Nat}

@[simp] theorem bit_toBool (v : BitVec W) (i : Nat) : (bit v i).toBool = v.getLsbD i := by simp [bit]

theorem bit_of_ge (v : BitVec W) {i : Nat} (h : W ≤ i) : bit v i = .zero := by
  simp [bit, BitVec.getLsbD_of_ge v i h]

/-- Two vectors with the same Bit at every index are the same (R26). -/
theorem eq_of_bit_eq {x y : BitVec W} (h : ∀ i, i < W → bit x i = bit y i) : x = y := by
  refine BitVec.eq_of_getLsbD_eq fun i hi => ?_
  simpa [bit] using h i hi

theorem getLsbD_ofBits (f : Nat → Bit) (i : Nat) :
    (ofBits W f).getLsbD i = (decide (i < W) && (f i).toBool) := by
  induction W with
  | zero => simp [ofBits]
  | succ n ih =>
    rw [ofBits, BitVec.getLsbD_cons, ih]
    by_cases h : i = n
    · simp [h]
    · have : i < n + 1 ↔ i < n := by omega
      simp [h, this]

/-- What `ofBits` builds holds `f i` at index i. -/
theorem bit_ofBits (f : Nat → Bit) {i : Nat} (h : i < W) : bit (ofBits W f) i = f i := by
  rw [bit, getLsbD_ofBits]
  simp [h]

theorem bit_setWidth (v : BitVec W) {n i : Nat} (h : i < n) : bit (v.setWidth n) i = bit v i := by
  simp [bit, h]

end Sys2Proof
end

