-- ==== Sys2Proof/Laws/State.lean ====
section
/-! SUPPORT. One lemma per field per update of the state. -/

namespace Sys2Proof.Machine

@[simp] theorem State.present_ctl (r : Request) (s : State) : (s.present r).ctl = r.ctl := rfl
@[simp] theorem State.present_a (r : Request) (s : State) : (s.present r).a = r.a := rfl
@[simp] theorem State.present_b (r : Request) (s : State) : (s.present r).b = r.b := rfl
@[simp] theorem State.present_rsp (r : Request) (s : State) : (s.present r).rsp = none := rfl
@[simp] theorem State.present_request (r : Request) (s : State) : (s.present r).request = r := rfl

@[simp] theorem State.answer_ctl (r : Response) (s : State) : (s.answer r).ctl = s.ctl := rfl
@[simp] theorem State.answer_a (r : Response) (s : State) : (s.answer r).a = s.a := rfl
@[simp] theorem State.answer_b (r : Response) (s : State) : (s.answer r).b = s.b := rfl
@[simp] theorem State.answer_rsp (r : Response) (s : State) : (s.answer r).rsp = some r := rfl
@[simp] theorem State.answer_request (r : Response) (s : State) : (s.answer r).request = s.request := rfl
@[simp] theorem State.answer_answer (r q : Response) (s : State) : (s.answer r).answer q = s.answer q := rfl

@[simp] theorem State.abandon_ctl (s : State) : s.abandon.ctl = s.ctl := rfl
@[simp] theorem State.abandon_a (s : State) : s.abandon.a = s.a := rfl
@[simp] theorem State.abandon_b (s : State) : s.abandon.b = s.b := rfl
@[simp] theorem State.abandon_rsp (s : State) : s.abandon.rsp = none := rfl
@[simp] theorem State.abandon_request (s : State) : s.abandon.request = s.request := rfl

@[simp] theorem State.withFetchWord_ctl (s : State) (n w : Nat) :
    (s.withFetchWord n w).ctl = BitVec.ofNat 8 (w % 2 ^ n) := rfl
@[simp] theorem State.withFetchWord_a (s : State) (n w : Nat) : (s.withFetchWord n w).a = s.a := rfl
@[simp] theorem State.withFetchWord_b (s : State) (n w : Nat) : (s.withFetchWord n w).b = s.b := rfl
@[simp] theorem State.withFetchWord_rsp (s : State) (n w : Nat) : (s.withFetchWord n w).rsp = none := rfl

end Sys2Proof.Machine
end

