-- ==== Sys2Proof/Laws/Ops.lean ====
section
/-! SUPPORT. What the shared operations answer, and the inversion of a step. -/

namespace Sys2Proof.Machine

@[simp] theorem complete_eq {W : Nat} (Y : BitVec W) (s : State) :
    complete Y s = .next (s.answer (.ok (resultPort Y))) := rfl

@[simp] theorem raiseIllegal_eq (c : Illegal) (s : State) : raiseIllegal c s = .fault (faultOf c) := rfl

@[simp] theorem code_faultOf (c : Illegal) : (faultOf c).code = c := by cases c <;> rfl

/-- If `complete` answers a next state, it is the old one with the result as its response. -/
theorem complete_next {W : Nat} {Y : BitVec W} {s s' : State} (h : complete Y s = .next s') :
    s' = s.answer (.ok (resultPort Y)) := by
  simpa using h.symm

theorem step_of_ok {s : State} {i : Instr} (h : decode s.ctl = .ok i) : step s = exec i s := by
  simp [step, h]

theorem step_of_error {s : State} {c : Illegal} (h : decode s.ctl = .error c) :
    step s = .fault (faultOf c) := by
  simp [step, h]

/-- A step that answers a next state ran the meaning of a decoded instruction. -/
theorem step_next {s s' : State} (h : step s = .next s') : ∃ i, decode s.ctl = .ok i ∧ exec i s = .next s' := by
  cases hd : decode s.ctl with
  | ok i => exact ⟨i, rfl, by rw [← step_of_ok hd]; exact h⟩
  | error c => rw [step_of_error hd] at h; cases h

/-- A step that faults ran a meaning that faults, or met a control word that does not decode. -/
theorem step_fault {s : State} {f : Fault} (h : step s = .fault f) :
    (∃ i, decode s.ctl = .ok i ∧ exec i s = .fault f) ∨ ∃ c, decode s.ctl = .error c ∧ f = faultOf c := by
  cases hd : decode s.ctl with
  | ok i => exact .inl ⟨i, rfl, by rw [← step_of_ok hd]; exact h⟩
  | error c =>
    rw [step_of_error hd] at h
    cases h
    exact .inr ⟨c, rfl, rfl⟩

theorem transact_of_next {r : Request} {s s' : State} (h : step (s.present r) = .next s') :
    transact r s = s' := by
  simp [transact, h]

theorem transact_of_fault {r : Request} {s : State} {f : Fault} (h : step (s.present r) = .fault f) :
    transact r s = (s.present r).answer (.illegal f.code) := by
  simp [transact, h]

end Sys2Proof.Machine
end

