-- ==== Sys2Proof/Laws/PerInstr.lean ====
section
/-! SUPPORT. Statements about every instruction as syntax, one lemma per constructor. -/

/-- The instruction is a legal pair, and the two fields of its control word are the codes that select its
operation and its width (R55 to R57, R62). -/
def Sys2Proof.Laws.Fields.Statement (i : Sys2Proof.Instr) : Prop :=
  i.wellFormed = true ∧
    Sys2Proof.opOfCode (Sys2Proof.opField (Sys2Proof.encode i)) = some i.op ∧
    Sys2Proof.widthOfCode (Sys2Proof.wselField (Sys2Proof.encode i)) = some i.width ∧
    Sys2Proof.instrAt i.op i.width = some i

namespace Sys2Proof.Laws

theorem Fields.shl4 : Fields.Statement .shl4 := ⟨rfl, rfl, rfl, rfl⟩
theorem Fields.shl8 : Fields.Statement .shl8 := ⟨rfl, rfl, rfl, rfl⟩
theorem Fields.shl16 : Fields.Statement .shl16 := ⟨rfl, rfl, rfl, rfl⟩
theorem Fields.shl32 : Fields.Statement .shl32 := ⟨rfl, rfl, rfl, rfl⟩
theorem Fields.shl64 : Fields.Statement .shl64 := ⟨rfl, rfl, rfl, rfl⟩
theorem Fields.shr4 : Fields.Statement .shr4 := ⟨rfl, rfl, rfl, rfl⟩
theorem Fields.shr8 : Fields.Statement .shr8 := ⟨rfl, rfl, rfl, rfl⟩
theorem Fields.shr16 : Fields.Statement .shr16 := ⟨rfl, rfl, rfl, rfl⟩
theorem Fields.shr32 : Fields.Statement .shr32 := ⟨rfl, rfl, rfl, rfl⟩
theorem Fields.shr64 : Fields.Statement .shr64 := ⟨rfl, rfl, rfl, rfl⟩
theorem Fields.rol4 : Fields.Statement .rol4 := ⟨rfl, rfl, rfl, rfl⟩
theorem Fields.rol8 : Fields.Statement .rol8 := ⟨rfl, rfl, rfl, rfl⟩
theorem Fields.rol16 : Fields.Statement .rol16 := ⟨rfl, rfl, rfl, rfl⟩
theorem Fields.rol32 : Fields.Statement .rol32 := ⟨rfl, rfl, rfl, rfl⟩
theorem Fields.rol64 : Fields.Statement .rol64 := ⟨rfl, rfl, rfl, rfl⟩
theorem Fields.ror4 : Fields.Statement .ror4 := ⟨rfl, rfl, rfl, rfl⟩
theorem Fields.ror8 : Fields.Statement .ror8 := ⟨rfl, rfl, rfl, rfl⟩
theorem Fields.ror16 : Fields.Statement .ror16 := ⟨rfl, rfl, rfl, rfl⟩
theorem Fields.ror32 : Fields.Statement .ror32 := ⟨rfl, rfl, rfl, rfl⟩
theorem Fields.ror64 : Fields.Statement .ror64 := ⟨rfl, rfl, rfl, rfl⟩
theorem Fields.add8 : Fields.Statement .add8 := ⟨rfl, rfl, rfl, rfl⟩
theorem Fields.add16 : Fields.Statement .add16 := ⟨rfl, rfl, rfl, rfl⟩
theorem Fields.add32 : Fields.Statement .add32 := ⟨rfl, rfl, rfl, rfl⟩
theorem Fields.add64 : Fields.Statement .add64 := ⟨rfl, rfl, rfl, rfl⟩
theorem Fields.sub8 : Fields.Statement .sub8 := ⟨rfl, rfl, rfl, rfl⟩
theorem Fields.sub16 : Fields.Statement .sub16 := ⟨rfl, rfl, rfl, rfl⟩
theorem Fields.sub32 : Fields.Statement .sub32 := ⟨rfl, rfl, rfl, rfl⟩
theorem Fields.sub64 : Fields.Statement .sub64 := ⟨rfl, rfl, rfl, rfl⟩
theorem Fields.cnt1w8 : Fields.Statement .cnt1w8 := ⟨rfl, rfl, rfl, rfl⟩
theorem Fields.cnt1w16 : Fields.Statement .cnt1w16 := ⟨rfl, rfl, rfl, rfl⟩
theorem Fields.cnt1w32 : Fields.Statement .cnt1w32 := ⟨rfl, rfl, rfl, rfl⟩
theorem Fields.cnt1w64 : Fields.Statement .cnt1w64 := ⟨rfl, rfl, rfl, rfl⟩
theorem Fields.cnt0w8 : Fields.Statement .cnt0w8 := ⟨rfl, rfl, rfl, rfl⟩
theorem Fields.cnt0w16 : Fields.Statement .cnt0w16 := ⟨rfl, rfl, rfl, rfl⟩
theorem Fields.cnt0w32 : Fields.Statement .cnt0w32 := ⟨rfl, rfl, rfl, rfl⟩
theorem Fields.cnt0w64 : Fields.Statement .cnt0w64 := ⟨rfl, rfl, rfl, rfl⟩
theorem Fields.rev8 : Fields.Statement .rev8 := ⟨rfl, rfl, rfl, rfl⟩
theorem Fields.rev16 : Fields.Statement .rev16 := ⟨rfl, rfl, rfl, rfl⟩
theorem Fields.rev32 : Fields.Statement .rev32 := ⟨rfl, rfl, rfl, rfl⟩
theorem Fields.rev64 : Fields.Statement .rev64 := ⟨rfl, rfl, rfl, rfl⟩
theorem Fields.fenc32 : Fields.Statement .fenc32 := ⟨rfl, rfl, rfl, rfl⟩
theorem Fields.fenc64 : Fields.Statement .fenc64 := ⟨rfl, rfl, rfl, rfl⟩
theorem Fields.fdec32 : Fields.Statement .fdec32 := ⟨rfl, rfl, rfl, rfl⟩
theorem Fields.fdec64 : Fields.Statement .fdec64 := ⟨rfl, rfl, rfl, rfl⟩

end Sys2Proof.Laws
end

