-- ==== Sys2Proof/Laws/Units.lean ====
section
/-! SUPPORT. What each unit of the block computes, one lemma per function, for the proofs to cite. -/

namespace Sys2Proof.Machine

variable {W : Nat}

theorem shlVec_of_ge (A : BitVec W) {k : Nat} (h : W ≤ k) : shlVec A k = 0 := by simp [shlVec, h]

theorem bit_shlVec (A : BitVec W) {k i : Nat} (hk : k < W) (hi : i < W) :
    bit (shlVec A k) i = if k ≤ i then bit A (i - k) else .zero := by
  rw [shlVec, if_neg (by omega), bit_ofBits _ hi]

theorem shrVec_of_ge (A : BitVec W) {k : Nat} (h : W ≤ k) : shrVec A k = 0 := by simp [shrVec, h]

theorem bit_shrVec (A : BitVec W) {k i : Nat} (hk : k < W) (hi : i < W) :
    bit (shrVec A k) i = if i + k ≤ W - 1 then bit A (i + k) else .zero := by
  rw [shrVec, if_neg (by omega), bit_ofBits _ hi]

theorem bit_rolVec (A : BitVec W) (k : Nat) {j : Nat} (hj : j < W) :
    bit (rolVec A k) j = bit A ((j + (W - k % W)) % W) := by
  rw [rolVec, bit_ofBits _ hj]

theorem bit_rorVec (A : BitVec W) (k : Nat) {i : Nat} (hi : i < W) :
    bit (rorVec A k) i = bit A ((i + k % W) % W) := by
  rw [rorVec, bit_ofBits _ hi]

theorem bit_revVec (A : BitVec W) {i : Nat} (hi : i < W) : bit (revVec A) i = bit A (W - 1 - i) := by
  rw [revVec, bit_ofBits _ hi]

theorem bit_fencVec (A : BitVec W) {i : Nat} (hi : i < W) : bit (fencVec A) i = bit A i := by
  rw [fencVec, bit_ofBits _ hi]

theorem bit_fdecVec (A : BitVec W) {i : Nat} (hi : i < W) : bit (fdecVec A) i = bit A i := by
  rw [fdecVec, bit_ofBits _ hi]

/-- The full-adder cell adds (R91). -/
theorem fullAdder_value (a b c : Bit) :
    a.toNat + b.toNat + c.toNat = (fullAdder a b c).1.toNat + 2 * (fullAdder a b c).2.toNat := by
  cases a <;> cases b <;> cases c <;> rfl

/-- The full-subtractor cell subtracts (R94). -/
theorem fullSubtractor_value (a b c : Bit) :
    (a.toNat : Int) - b.toNat - c.toNat =
      (fullSubtractor a b c).1.toNat - 2 * (fullSubtractor a b c).2.toNat := by
  cases a <;> cases b <;> cases c <;> rfl

theorem ripple_zero (cell : Bit → Bit → Bit → Bit × Bit) (A B : BitVec W) :
    ripple cell A B 0 = (0#0, .zero) := rfl

theorem ripple_succ (cell : Bit → Bit → Bit → Bit × Bit) (A B : BitVec W) (n : Nat) :
    ripple cell A B (n + 1) =
      (BitVec.cons (cell (bit A n) (bit B n) (ripple cell A B n).2).1.toBool (ripple cell A B n).1,
        (cell (bit A n) (bit B n) (ripple cell A B n).2).2) := rfl

/-- Every position of a ripple computation is its cell's first output, fed by the carry into it. -/
theorem bit_ripple (cell : Bit → Bit → Bit → Bit × Bit) (A B : BitVec W) {n i : Nat} (h : i < n) :
    bit (ripple cell A B n).1 i = (cell (bit A i) (bit B i) (ripple cell A B i).2).1 := by
  induction n with
  | zero => omega
  | succ n ih =>
    rw [ripple_succ]
    by_cases hi : i = n
    · subst hi
      simp only [bit, BitVec.getLsbD_cons, if_true, Bit.ofBool_toBool]
    · simp only [bit, BitVec.getLsbD_cons, hi, if_false]
      exact ih (by omega)

theorem countTo_le (x : Bit) (A : BitVec W) (n : Nat) : countTo x A n ≤ n := by
  induction n with
  | zero => rfl
  | succ n ih => rw [countTo]; split <;> omega

theorem countTo_succ (x : Bit) (A : BitVec W) (n : Nat) :
    countTo x A (n + 1) = countTo x A n + (if bit A n = x then 1 else 0) := by
  by_cases h : bit A n = x
  · simp [countTo, h, (Bit.is_iff x x).2 rfl]
  · have : (bit A n).is x = false := by
      cases hb : (bit A n).is x with
      | false => rfl
      | true => exact absurd ((Bit.is_iff _ _).1 hb) h
    simp [countTo, h, this]

end Sys2Proof.Machine
end

