-- ==== Sys2Proof/Tests/Slice0.lean ====
section
/-! SUPPORT. The model's own tests. Expected values are the spec's (`spec/95_test_vectors.md`, the section named
beside each), never the model's own answers. At the end, one witness for every statement with hypotheses. -/

namespace Sys2Proof.Tests

open Sys2Proof Sys2Proof.Machine

/-- The response to a request given by its three ports, on a block just reset: one step. -/
def ask (ctl : Ctl) (a b : Port) : Option Response := respond { ctl := ctl, a := a, b := b }

/-- A state with a request on the ports and no response yet. -/
def holding (ctl : Ctl) (a b : Port) : State := { ctl := ctl, a := a, b := b, rsp := none }

/-! ### Decoding: the control words of the table of R62, bit by bit -/

theorem test_decode_shl :
    decode 0b0001_0000 = .ok .shl4 ∧
    decode 0b0001_0001 = .ok .shl8 ∧
    decode 0b0001_0010 = .ok .shl16 ∧
    decode 0b0001_0011 = .ok .shl32 ∧
    decode 0b0001_0100 = .ok .shl64 := by decide

theorem test_decode_shr :
    decode 0b0010_0000 = .ok .shr4 ∧
    decode 0b0010_0001 = .ok .shr8 ∧
    decode 0b0010_0010 = .ok .shr16 ∧
    decode 0b0010_0011 = .ok .shr32 ∧
    decode 0b0010_0100 = .ok .shr64 := by decide

theorem test_decode_rol :
    decode 0b0011_0000 = .ok .rol4 ∧
    decode 0b0011_0001 = .ok .rol8 ∧
    decode 0b0011_0010 = .ok .rol16 ∧
    decode 0b0011_0011 = .ok .rol32 ∧
    decode 0b0011_0100 = .ok .rol64 := by decide

theorem test_decode_ror :
    decode 0b0100_0000 = .ok .ror4 ∧
    decode 0b0100_0001 = .ok .ror8 ∧
    decode 0b0100_0010 = .ok .ror16 ∧
    decode 0b0100_0011 = .ok .ror32 ∧
    decode 0b0100_0100 = .ok .ror64 := by decide

theorem test_decode_add :
    decode 0b0101_0001 = .ok .add8 ∧
    decode 0b0101_0010 = .ok .add16 ∧
    decode 0b0101_0011 = .ok .add32 ∧
    decode 0b0101_0100 = .ok .add64 := by decide

theorem test_decode_sub :
    decode 0b0110_0001 = .ok .sub8 ∧
    decode 0b0110_0010 = .ok .sub16 ∧
    decode 0b0110_0011 = .ok .sub32 ∧
    decode 0b0110_0100 = .ok .sub64 := by decide

theorem test_decode_cnt1 :
    decode 0b0111_0001 = .ok .cnt1w8 ∧
    decode 0b0111_0010 = .ok .cnt1w16 ∧
    decode 0b0111_0011 = .ok .cnt1w32 ∧
    decode 0b0111_0100 = .ok .cnt1w64 := by decide

theorem test_decode_cnt0 :
    decode 0b1000_0001 = .ok .cnt0w8 ∧
    decode 0b1000_0010 = .ok .cnt0w16 ∧
    decode 0b1000_0011 = .ok .cnt0w32 ∧
    decode 0b1000_0100 = .ok .cnt0w64 := by decide

theorem test_decode_rev :
    decode 0b1001_0001 = .ok .rev8 ∧
    decode 0b1001_0010 = .ok .rev16 ∧
    decode 0b1001_0011 = .ok .rev32 ∧
    decode 0b1001_0100 = .ok .rev64 := by decide

theorem test_decode_fenc :
    decode 0b1010_0011 = .ok .fenc32 ∧
    decode 0b1010_0100 = .ok .fenc64 := by decide

theorem test_decode_fdec :
    decode 0b1011_0011 = .ok .fdec32 ∧
    decode 0b1011_0100 = .ok .fdec64 := by decide

theorem test_decode_illOp :
    decode 0x00 = .error .illOp ∧ decode 0x0F = .error .illOp ∧ decode 0xC3 = .error .illOp ∧
    decode 0xFF = .error .illOp := by decide

theorem test_decode_illWidth :
    decode 0x15 = .error .illWidth ∧ decode 0x1F = .error .illWidth ∧ decode 0x50 = .error .illWidth ∧
    decode 0x70 = .error .illWidth ∧ decode 0xA2 = .error .illWidth ∧ decode 0xA5 = .error .illWidth ∧
    decode 0xB2 = .error .illWidth ∧ decode 0xBF = .error .illWidth := by decide

theorem test_decodeTableWord_add8 : decodeTableWord 8 0x51 = some .add8 ∧ decodeTableWord 16 0x51 = some .add8 := by
  decide

/-! ### Well-formedness: an ill-formed term for each check -/

theorem test_wellFormed_refuses_add4 : legalPair .add .w4 = false := by decide

theorem test_wellFormed_refuses_fenc16 : legalPair .fenc .w16 = false := by decide

theorem test_wellFormed_accepts_shl4 : legalPair .shl .w4 = true ∧ Instr.wellFormed .shl4 = true := by decide

/-- R68: "A literal operand wider than W". -/
theorem test_line_refuses_wide_a : Line.wellFormed { instr := .rol8, a := 0x100, b := some 2 } = false := by decide

theorem test_line_refuses_wide_b : Line.wellFormed { instr := .add8, a := 1, b := some 0x100 } = false := by decide

theorem test_line_refuses_wide_amount : Line.wellFormed { instr := .shl8, a := 1, b := some (2 ^ 64) } = false := by
  decide

theorem test_line_refuses_unary_b : Line.wellFormed { instr := .rev8, a := 1, b := some 0 } = false := by decide

theorem test_line_refuses_missing_b : Line.wellFormed { instr := .sub8, a := 1, b := none } = false := by decide

/-- R68's own example: `ROL.8 t, 0xCA, 2` is `ctl = 0x31, a = 0xCA, b = 2`. -/
theorem test_line_request :
    Line.wellFormed { instr := .rol8, a := 0xCA, b := some 2 } = true ∧
    Line.request { instr := .rol8, a := 0xCA, b := some 2 } = { ctl := 0x31, a := 0xCA, b := 2 } := by decide

theorem test_line_text :
    Line.text { instr := .rol8, a := 202, b := some 2 } = "ROL.8 y, 202, 2" := by decide

/-- R62: `<OP>.<W>`, as the opcode table spells it. -/
theorem test_mnemonic :
    Instr.mnemonic .cnt1w8 = "CNT1.8" ∧ Instr.mnemonic .fdec64 = "FDEC.64" ∧ Instr.mnemonic .shl4 = "SHL.4" := by decide

/-! ### One step of each instruction -/

/-- 2.1. -/
theorem test_shl4 : ask 0x10 0xB 0x3 = some (.ok 0x8) := by decide

/-- 2.1, upper wires of a not read. -/
theorem test_shl8 : ask 0x11 0xFFFFFFFFFFFFFFCA 0x2 = some (.ok 0x28) := by decide

/-- 2.1, k = 2^32: all of b is read. -/
theorem test_shl8_again : ask 0x11 0xCA 0x100000000 = some (.ok 0x0) := by decide

/-- 2.1. -/
theorem test_shl16 : ask 0x12 0x1234 0x4 = some (.ok 0x2340) := by decide

/-- 2.1. -/
theorem test_shl32 : ask 0x13 0xDEADBEEF 0x4 = some (.ok 0xEADBEEF0) := by decide

/-- 2.1. -/
theorem test_shl64 : ask 0x14 0x123456789ABCDEF 0x8 = some (.ok 0x23456789ABCDEF00) := by
  decide +kernel

/-- 2.1. -/
theorem test_shr4 : ask 0x20 0xB 0x1 = some (.ok 0x5) := by decide

/-- 2.1, no sign copied. -/
theorem test_shr8 : ask 0x21 0x80 0x1 = some (.ok 0x40) := by decide

/-- 2.1. -/
theorem test_shr16 : ask 0x22 0x8001 0xF = some (.ok 0x1) := by decide

/-- 2.1, k = 36 saturates. -/
theorem test_shr32 : ask 0x23 0xDEADBEEF 0x24 = some (.ok 0x0) := by decide

/-- script 3. -/
theorem test_shr64 : ask 0x24 0x405EDD3C07EE0B0B 0x34 = some (.ok 0x405) := by
  decide +kernel

/-- 2.1. -/
theorem test_rol4 : ask 0x30 0xB 0x3 = some (.ok 0xD) := by decide

/-- S10. -/
theorem test_rol8 : ask 0x31 0xCA 0x2 = some (.ok 0x2B) := by decide

/-- 2.1, k = 2^64 - 1. -/
theorem test_rol8_again : ask 0x31 0xCA 0xFFFFFFFFFFFFFFFF = some (.ok 0x65) := by decide

/-- 2.1, k = 20. -/
theorem test_rol16 : ask 0x32 0x1234 0x14 = some (.ok 0x2341) := by decide

/-- script 5. -/
theorem test_rol32 : ask 0x33 0xDEADBEEF 0x24 = some (.ok 0xEADBEEFD) := by decide

/-- 2.1. -/
theorem test_rol64 : ask 0x34 0x123456789ABCDEF 0x8 = some (.ok 0x23456789ABCDEF01) := by
  decide +kernel

/-- 2.1. -/
theorem test_ror4 : ask 0x40 0xB 0x3 = some (.ok 0x7) := by decide

/-- 2.1. -/
theorem test_ror8 : ask 0x41 0xCA 0x2 = some (.ok 0xB2) := by decide

/-- 2.1, k = 17. -/
theorem test_ror16 : ask 0x42 0x8001 0x11 = some (.ok 0xC000) := by decide

/-- 2.1. -/
theorem test_ror32 : ask 0x43 0xDEADBEEF 0x4 = some (.ok 0xFDEADBEE) := by decide

/-- 2.1. -/
theorem test_ror64 : ask 0x44 0x123456789ABCDEF 0x8 = some (.ok 0xEF0123456789ABCD) := by
  decide +kernel

/-- 2.2. -/
theorem test_add8 : ask 0x51 0xCA 0x53 = some (.ok 0x1D) := by decide

/-- 2.2, upper wire not read, carry dropped. -/
theorem test_add8_again : ask 0x51 0x1FF 0x1 = some (.ok 0x0) := by decide

/-- 2.2. -/
theorem test_add16 : ask 0x52 0x1234 0xFEDC = some (.ok 0x1110) := by decide

/-- 2.2. -/
theorem test_add32 : ask 0x53 0xDEADBEEF 0x12345678 = some (.ok 0xF0E21567) := by decide

/-- 2.2. -/
theorem test_add64 : ask 0x54 0xABCDEF0123456789 0x76543210FEDCBA98 = some (.ok 0x2222211222222221) := by
  decide +kernel

/-- 2.2. -/
theorem test_sub8 : ask 0x61 0x53 0xCA = some (.ok 0x89) := by decide

/-- 2.2. -/
theorem test_sub8_again : ask 0x61 0x0 0x1 = some (.ok 0xFF) := by decide

/-- 2.2. -/
theorem test_sub16 : ask 0x62 0x6789 0xBA98 = some (.ok 0xACF1) := by decide

/-- 2.2. -/
theorem test_sub32 : ask 0x63 0x12345678 0xDEADBEEF = some (.ok 0x33869789) := by decide

/-- 2.2. -/
theorem test_sub64 : ask 0x64 0x123456789ABCDEF 0xFEDCBA9876543210 = some (.ok 0x2468ACF13579BDF) := by
  decide +kernel

/-- 2.3, upper wires not counted. -/
theorem test_cnt1w8 : ask 0x71 0xFFFFFFFFFFFFFF00 0x0 = some (.ok 0x0) := by decide

/-- 2.3. -/
theorem test_cnt1w16 : ask 0x72 0x1234 0x0 = some (.ok 0x5) := by decide

/-- 2.3. -/
theorem test_cnt1w32 : ask 0x73 0xDEADBEEF 0x0 = some (.ok 0x18) := by decide

/-- 2.3, the seventh bit. -/
theorem test_cnt1w64 : ask 0x74 0xFFFFFFFFFFFFFFFF 0x0 = some (.ok 0x40) := by decide

/-- 2.3. -/
theorem test_cnt0w8 : ask 0x81 0xFFFFFFFFFFFFFF00 0x0 = some (.ok 0x8) := by decide

/-- 2.3. -/
theorem test_cnt0w16 : ask 0x82 0x8001 0x0 = some (.ok 0xE) := by decide

/-- 2.3. -/
theorem test_cnt0w32 : ask 0x83 0xDEADBEEF 0x0 = some (.ok 0x8) := by decide

/-- 2.3. -/
theorem test_cnt0w64 : ask 0x84 0x405EDD3C07EE0B0B 0x0 = some (.ok 0x21) := by decide

/-- S10. -/
theorem test_rev8 : ask 0x91 0xCA 0x0 = some (.ok 0x53) := by decide

/-- 2.3. -/
theorem test_rev16 : ask 0x92 0x1234 0x0 = some (.ok 0x2C48) := by decide

/-- 2.3. -/
theorem test_rev32 : ask 0x93 0x42F6E9E0 0x0 = some (.ok 0x7976F42) := by decide

/-- 2.3. -/
theorem test_rev64 : ask 0x94 0x405EDD3C07EE0B0B 0x0 = some (.ok 0xD0D077E03CBB7A02) := by
  decide +kernel

/-- 2.5. -/
theorem test_fenc32 : ask 0xA3 0xDEADBEEF3F800000 0x0 = some (.ok 0x3F800000) := by decide

/-- 2.5, a signalling NaN stays. -/
theorem test_fenc32_again : ask 0xA3 0x7F800001 0x0 = some (.ok 0x7F800001) := by decide

/-- 2.5. -/
theorem test_fenc64 : ask 0xA4 0x7FF0000000000001 0x0 = some (.ok 0x7FF0000000000001) := by
  decide +kernel

/-- 2.5. -/
theorem test_fdec32 : ask 0xB3 0x7FC12345 0x0 = some (.ok 0x7FC12345) := by decide

/-- 2.5. -/
theorem test_fdec64 : ask 0xB4 0xFFF0000000000000 0x0 = some (.ok 0xFFF0000000000000) := by
  decide +kernel

/-! ### Cells, chains, illegal requests, field view -/

/-- 2.2: the carry chain of `0xCA + 0x53`, `c[0..8] = 0,0,1,0,0,0,0,1,1`. -/
theorem test_carry_chain :
    (List.range 9).map (fun n => (addTo (0xCA : BitVec 8) 0x53 n).2.toNat) = [0, 0, 1, 0, 0, 0, 0, 1, 1] := by decide

/-- 2.2: the borrow chain of `0x53 - 0xCA`, `w[0..8] = 0,0,0,0,1,0,0,0,1`. -/
theorem test_borrow_chain :
    (List.range 9).map (fun n => (subTo (0x53 : BitVec 8) 0xCA n).2.toNat) = [0, 0, 0, 0, 1, 0, 0, 0, 1] := by decide

/-- 2.4. -/
theorem test_illegal_status :
    ask 0x0F 5 7 = some (.illegal .illOp) ∧ ask 0x50 5 7 = some (.illegal .illWidth) ∧
    (Response.illegal .illOp).st = 1 ∧ (Response.illegal .illWidth).st = 2 := by decide

/-- Script 4: illegal requests do no harm. -/
theorem test_script4 :
    runScript [⟨0x51, 1, 2⟩, ⟨0x50, 1, 2⟩, ⟨0x00, 1, 2⟩, ⟨0xA1, 1, 2⟩, ⟨0xF7, 1, 2⟩, ⟨0x51, 1, 2⟩] State.reset =
      [some (.ok 3), some (.illegal .illWidth), some (.illegal .illOp), some (.illegal .illWidth),
        some (.illegal .illOp), some (.ok 3)] := by decide

/-- 41_add_sub.md R96: `0x80` read as Signed<8> is -128. -/
theorem test_sval : sval (0x80 : BitVec 8) = -128 ∧ sval (0x7F : BitVec 8) = 127 := by decide

/-- 2.5: the fields of the word of 123.456789. -/
theorem test_fields_binary64 :
    binary64.fields (0x405EDD3C07EE0B0B : BitVec 64) = { s := .zero, e := 0x405, f := 0xEDD3C07EE0B0B } := by decide

/-- 2.5: a quiet NaN with its payload. -/
theorem test_fields_nan :
    binary32.fields (0x7FC12345 : BitVec 32) = { s := .zero, e := 0xFF, f := 0x412345 } ∧
    binary32.classOf (0x7FC12345 : BitVec 32) = .nan ∧ binary32.quietBit (0x7FC12345 : BitVec 32) = .one ∧
    binary32.payload (0x7FC12345 : BitVec 32) = 0x012345 := by decide

/-- 2.5: one pattern of each class. -/
theorem test_classes :
    binary32.classOf (0x80000000 : BitVec 32) = .zero ∧ binary32.classOf (0x007FFFFF : BitVec 32) = .subnormal ∧
    binary32.classOf (0x00800000 : BitVec 32) = .normal ∧ binary32.classOf (0x7F7FFFFF : BitVec 32) = .normal ∧
    binary32.classOf (0xFF800000 : BitVec 32) = .infinity ∧ binary32.classOf (0x7F800001 : BitVec 32) = .nan := by
  decide

/-- 43_ieee754.md R119: -2.0, and 0x42F6E9E0 is exactly 123.456787109375. -/
theorem test_values :
    binary32.value (0xC0000000 : BitVec 32) = .finite (-2) ∧
    binary32.value (0x42F6E9E0 : BitVec 32) = .finite (123456787109375 / 1000000000000) := by decide +kernel

/-! ### Witnesses: the hypotheses of the statements can be met, clause by clause -/

theorem witness_SlicesAndWideningsByIndex :
    bit (slice (0xCA : BitVec 8) 7 4) 3 = bit (0xCA : BitVec 8) 7 ∧
    bit (concat (0b1 : BitVec 1) (0b0 : BitVec 1)) 0 = .zero ∧ bit (concat (0b1 : BitVec 1) (0b0 : BitVec 1)) 1 = .one ∧
    bit (zext 8 (0xC : BitVec 4)) 3 = .one ∧ bit (zext 8 (0xC : BitVec 4)) 4 = .zero ∧
    bit (sext 8 (0xC : BitVec 4)) 7 = .one := by decide

theorem witness_UnsignedValueIsSumOfBits : bit (vec 4 0x1A) 3 = Bit.ofBool ((0x1A).testBit 3) := by decide

theorem witness_StepRunsTheDecodedInstruction :
    decode (holding 0x51 1 2).ctl = .ok .add8 ∧ decode (holding 0x0F 1 2).ctl = .error .illOp ∧
    decode (holding 0x50 1 2).ctl = .error .illWidth := by decide

theorem witness_PlacedControlWordIsRun :
    decodeTableWord 8 (encode .fdec64).toNat = some .fdec64 ∧
    ((State.reset).withFetchWord 8 (encode .fdec64).toNat).ctl = 0xB4 := by decide

theorem witness_DecodeAndEncodeAgree : decode 0x10 = .ok .shl4 ∧ encode .shl4 = 0x10 ∧
    decode 0xB4 = .ok .fdec64 ∧ encode .fdec64 = 0xB4 := by decide

/-- The values where the clauses of the pseudocode meet. -/
theorem witness_DecoderFollowsThePseudocode :
    (0x0F : Ctl).toNat / 16 = 0 ∧ 12 ≤ (0xC0 : Ctl).toNat / 16 ∧
    (0x15 : Ctl).toNat / 16 = 1 ∧ 5 ≤ (0x15 : Ctl).toNat % 16 ∧ (0xBF : Ctl).toNat / 16 < 12 ∧
    (0x50 : Ctl).toNat % 16 < 5 ∧ 4 ∉ [8, 16, 32, 64] ∧ (0xB4 : Ctl).toNat % 16 < 5 ∧ 64 ∈ [32, 64] := by
  decide

theorem witness_ReservedOperationIsIllOp :
    (holding 0x0F 1 2).ctl.toNat / 16 ∈ [0x0, 0xC, 0xD, 0xE, 0xF] ∧
    (holding 0xC0 1 2).ctl.toNat / 16 ∈ [0x0, 0xC, 0xD, 0xE, 0xF] := by decide

theorem witness_UnavailableWidthIsIllWidth :
    (holding 0x15 1 2).ctl.toNat / 16 = 1 ∧ 5 ≤ (holding 0x15 1 2).ctl.toNat % 16 ∧
    (holding 0x90 1 2).ctl.toNat / 16 ∈ [5, 6, 7, 8, 9] ∧ (holding 0x90 1 2).ctl.toNat % 16 = 0 ∧
    (holding 0xB2 1 2).ctl.toNat / 16 ∈ [10, 11] ∧ (holding 0xB2 1 2).ctl.toNat % 16 ≤ 2 := by decide

theorem witness_StatusPortSaysWhy :
    (transact ⟨0x51, 1, 2⟩ State.reset).st = some 0 ∧ (transact ⟨0xFF, 1, 2⟩ State.reset).st = some 1 ∧
    (transact ⟨0xBF, 1, 2⟩ State.reset).st = some 2 := by decide

theorem witness_OperationIsExaminedFirst :
    (Request.mk 0x0F 1 2).ctl.toNat / 16 = 0 ∧ 12 ≤ (Request.mk 0xC9 1 2).ctl.toNat / 16 ∧
    (Request.mk 0x51 1 2).ctl = (Request.mk 0x51 3 4).ctl := by decide

theorem witness_IllegalRequestDoesNoHarm :
    decode (Request.mk 0x50 1 2).ctl = .error .illWidth ∧ decode (Request.mk 0xF7 1 2).ctl = .error .illOp := by decide

theorem witness_UnreadWiresHaveNoEffect :
    (∀ j, j < Instr.bits .add8 → bit (holding 0x51 0x1FF 0x101).a j = bit (holding 0x51 0xFF 1).a j) ∧
    (∀ j, j < Instr.bits .add8 → bit (holding 0x51 0x1FF 0x101).b j = bit (holding 0x51 0xFF 1).b j) ∧
    Instr.op .add8 ∈ [Op.add, .sub] ∧ Instr.op .ror64 ∈ [Op.shl, .shr, .rol, .ror] := by decide

theorem witness_ResultIsZeroExtended :
    exec .add8 (holding 0x51 0xFF 1) = .next { ctl := 0x51, a := 0xFF, b := 1, rsp := some (.ok 0) } ∧
    exec .cnt1w64 (holding 0x74 7 0) = .next { ctl := 0x74, a := 7, b := 0, rsp := some (.ok 3) } :=
  ⟨rfl, rfl⟩

/-- Both clauses of the shift statements: an amount below W and one that is W. -/
theorem witness_ShiftCompletes :
    Instr.shl4 ∈ [Instr.shl4, .shl8, .shl16, .shl32, .shl64] ∧ (holding 0x10 0xB 3).b.toNat < Instr.bits .shl4 ∧
    Instr.bits .shl4 ≤ (holding 0x10 0xB 4).b.toNat ∧
    Instr.shr64 ∈ [Instr.shr4, .shr8, .shr16, .shr32, .shr64] ∧ (holding 0x24 1 63).b.toNat < Instr.bits .shr64 ∧
    Instr.bits .shr64 ≤ (holding 0x24 1 64).b.toNat := by decide

theorem witness_RotateCompletes :
    Instr.rol64 ∈ [Instr.rol4, .rol8, .rol16, .rol32, .rol64] ∧
    Instr.ror4 ∈ [Instr.ror4, .ror8, .ror16, .ror32, .ror64] ∧ 63 < Instr.bits .rol64 ∧ 3 < Instr.bits .ror4 := by
  decide

theorem witness_ShifterLaws :
    Width.w4 ∈ Config.WV ∧ Width.w64 ∈ Config.WV ∧ Width.w4.bits ≤ 4 ∧ 3 < Width.w4.bits := by decide

theorem witness_AddAndSubtractComplete :
    Instr.add8 ∈ [Instr.add8, .add16, .add32, .add64] ∧ Instr.sub64 ∈ [Instr.sub8, .sub16, .sub32, .sub64] ∧
    7 < Instr.bits .add8 := by decide

theorem witness_AdderLaws : Width.w8 ∈ Config.WU ∧ Width.w64 ∈ Config.WU := by decide

theorem witness_RipplePrefixIsExact : (addTo (0xFF : BitVec 8) 1 8).1 = 0 ∧ (addTo (0xFF : BitVec 8) 1 8).2 = .one := by
  decide

theorem witness_CountsAndReverseComplete :
    Instr.cnt1w8 ∈ [Instr.cnt1w8, .cnt1w16, .cnt1w32, .cnt1w64] ∧
    Instr.cnt0w64 ∈ [Instr.cnt0w8, .cnt0w16, .cnt0w32, .cnt0w64] ∧
    Instr.rev8 ∈ [Instr.rev8, .rev16, .rev32, .rev64] := by decide

theorem witness_FloatConversionsComplete :
    Instr.fenc32 ∈ [Instr.fenc32, .fenc64, .fdec32, .fdec64] ∧
    Instr.fdec64 ∈ [Instr.fenc32, .fenc64, .fdec32, .fdec64] := by decide

theorem witness_FloatFieldsSplitAndJoin :
    binary32 ∈ [binary32, binary64] ∧ binary32.inRange { s := .one, e := 255, f := 0x7FFFFF } = true ∧
    binary32.pack { s := .one, e := 255, f := 0x7FFFFF } = 0xFFFFFFFF := by decide

theorem witness_FloatValuesByClass :
    binary64.classOf (0x8000000000000000 : BitVec 64) = .zero ∧
    binary64.classOf (0x000FFFFFFFFFFFFF : BitVec 64) = .subnormal ∧
    binary64.classOf (0x7FEFFFFFFFFFFFFF : BitVec 64) = .normal ∧
    binary64.classOf (0x7FF0000000000000 : BitVec 64) = .infinity ∧
    binary64.classOf (0x7FF0000000000001 : BitVec 64) = .nan := by decide

theorem witness_StepDependsOnTheRequestAlone :
    (holding 0x51 1 2).request = ((holding 0x51 1 2).answer (.ok 9)).request ∧
    holding 0x51 1 2 ≠ (holding 0x51 1 2).answer (.ok 9) := by decide

theorem witness_StepLeavesTheInputPorts_and_StepIsIdempotent :
    step (holding 0x61 0 1) = .next { ctl := 0x61, a := 0, b := 1, rsp := some (.ok 0xFF) } := rfl

theorem witness_InstancesShareNothing :
    ([State.reset, holding 0x51 1 2] : Bank)[1]? = some (holding 0x51 1 2) ∧ (0 : Nat) ≠ 1 := by decide

theorem witness_SafeExactlyWhenLegal :
    decode (holding 0x51 1 2).ctl = .ok .add8 ∧ faultFree [⟨0x51, 1, 2⟩, ⟨0xB4, 1, 2⟩] = true ∧
    faultFree [⟨0x51, 1, 2⟩, ⟨0x50, 1, 2⟩] = false := by decide

theorem witness_ResultsFedBackAreUndone :
    ask 0x30 0xB 3 = some (.ok 0xD) ∧ ask 0x40 0xD 3 = some (.ok 0xB) ∧
    ask 0x51 0xFF 1 = some (.ok 0) ∧ ask 0x61 0 1 = some (.ok 0xFF) := by decide

/-- Coherent with no response, and coherent with one: the state of `ADD.8 y, 1, 2` after its step. -/
theorem witness_StepsKeepTheResponseCoherent :
    State.reset.Coherent ∧ ((holding 0x51 1 2).answer (.ok 3)).Coherent ∧
    ¬ ((holding 0x51 1 2).answer (.ok 4)).Coherent := by
  have h : nativeResponse { ctl := 0x51, a := 1, b := 2 } = .ok 3 := by decide
  refine ⟨fun _ hr => (Option.some_ne_none _ hr.symm).elim, fun r hr => ?_, fun hc => ?_⟩
  · exact (Option.some.inj hr).symm.trans h.symm
  · have := (hc _ rfl).trans h
    exact absurd this (by decide)

theorem witness_WrittenLineRunsWithItsLiterals :
    Line.wellFormed { instr := .add64, a := 2 ^ 64 - 1, b := some (2 ^ 64 - 1) } = true ∧
    Line.wellFormed { instr := .shl4, a := 15, b := some (2 ^ 64 - 1) } = true ∧
    Line.wellFormed { instr := .rev8, a := 255, b := none } = true ∧
    Op.bPort .add = .operand ∧ Op.bPort .shl = .amount ∧ Op.bPort .rev = .unread := by decide

end Sys2Proof.Tests
end

section
/-! PROOFS. The family of `spec/00_scope.md`: the unsigned value of a vector and its inverse. -/

namespace Sys2Proof

variable {W : Nat}

theorem toNat_bit (v : BitVec W) (i : Nat) : (bit v i).toNat = (v.getLsbD i).toNat := by
  rw [Bit.toNat_eq, bit_toBool]

theorem uval_lt (v : BitVec W) : uval v < 2 ^ W := v.isLt

@[simp] theorem uval_vec (W n : Nat) : uval (vec W n) = n % 2 ^ W := BitVec.toNat_ofNat n W

@[simp] theorem vec_uval (v : BitVec W) : vec W (uval v) = v :=
  BitVec.eq_of_toNat_eq ((uval_vec W _).trans (Nat.mod_eq_of_lt (uval_lt v)))

/-- R9: `vec_W(n)` holds bit i of n at index i. -/
theorem bit_vec (n : Nat) {i : Nat} (h : i < W) : bit (vec W n) i = Bit.ofBool (n.testBit i) := by
  rw [bit, vec, BitVec.getLsbD_ofNat, decide_eq_true h, Bool.true_and]

theorem vec_mod_two_pow (W n : Nat) : vec W (n % 2 ^ W) = vec W n := by
  rw [← uval_vec, vec_uval]

/-- The sum over the lowest n positions is the value modulo `2^n`: R9 for every prefix of the vector, by
induction on the number of positions, each of which adds its own Bit. -/
theorem sum_bits_eq_uval_mod (v : BitVec W) (n : Nat) :
    ((List.range n).map fun i => (bit v i).toNat * 2 ^ i).sum = uval v % 2 ^ n := by
  induction n with
  | zero => simp [Nat.mod_one]
  | succ n ih =>
    have htop : uval v % 2 ^ (n + 1) = 2 ^ n * (bit v n).toNat + uval v % 2 ^ n := by
      rw [toNat_bit, Nat.mod_pow_succ, ← Nat.toNat_testBit, Nat.add_comm]
      rfl
    rw [List.sum_range_succ, ih, htop, Nat.mul_comm, Nat.add_comm]

/-- R9: the unsigned value is the sum over all W positions. -/
theorem uval_eq_sum_bits (v : BitVec W) :
    uval v = ((List.range W).map fun i => (bit v i).toNat * 2 ^ i).sum := by
  rw [sum_bits_eq_uval_mod, Nat.mod_eq_of_lt (uval_lt v)]

/-- Settles O3: the sum is the prefix sum `sum_bits_eq_uval_mod` at n = W, and `vec` is the inverse of `uval`
modulo `2^W`. -/
theorem unsignedValueIsSumOfBits : Obligations.UnsignedValueIsSumOfBits := by
  intro W
  exact ⟨fun v => ⟨uval_eq_sum_bits v, Nat.le_sub_one_of_lt (uval_lt v), vec_uval v⟩,
    fun n _ h => bit_vec n h, fun n => ⟨(vec_mod_two_pow W n).symm, uval_vec W n⟩⟩

end Sys2Proof
end

section
/-! PROOFS. The family of `spec/10_state.md`: what running an instruction does to the ports. -/

namespace Sys2Proof.Machine

/-- R30, R125: every instruction completes, so its answer is the state it found with a result as the response.
Each meaning is `complete` of its own vector. -/
theorem exec_completes (i : Instr) (s : State) : ∃ y, exec i s = .next (s.answer (.ok y)) := by
  cases i <;> exact ⟨_, complete_eq _ s⟩

/-- The inversion of `exec`: the next state differs from the old one in the response only. -/
theorem exec_next {i : Instr} {s s' : State} (h : exec i s = .next s') : ∃ y, s' = s.answer (.ok y) := by
  obtain ⟨y, hy⟩ := exec_completes i s
  exact ⟨y, Host.Outcome.next.inj (h.symm.trans hy)⟩

theorem exec_keeps_inputs {i : Instr} {s s' : State} (h : exec i s = .next s') :
    s'.ctl = s.ctl ∧ s'.a = s.a ∧ s'.b = s.b ∧ ∃ y, s'.rsp = some (.ok y) := by
  obtain ⟨y, rfl⟩ := exec_next h
  exact ⟨State.answer_ctl _ s, State.answer_a _ s, State.answer_b _ s, y, State.answer_rsp _ s⟩

/-- Settles O42: a step that answers a next state ran a decoded instruction (`step_next`), and every instruction
keeps the input ports (`exec_keeps_inputs`). -/
theorem stepLeavesTheInputPorts : Obligations.StepLeavesTheInputPorts := by
  refine ⟨fun i s s' h => exec_keeps_inputs h, fun s s' h => ?_⟩
  obtain ⟨i, -, hi⟩ := step_next h
  exact exec_keeps_inputs hi

end Sys2Proof.Machine
end

section
/-! PROOFS. The family of `spec/30_encoding.md`: the decoder by its two fields, the requests it refuses, and the
wires that a meaning reads. -/

namespace Sys2Proof

/-! ### The decoder, in terms of the value of `ctl` -/

@[simp] theorem opField_eq (ctl : Ctl) : opField ctl = ctl.toNat / 16 := by
  have := ctl.isLt
  rw [opField, BitVec.extractLsb'_toNat, Nat.shiftRight_eq_div_pow]
  omega

@[simp] theorem wselField_eq (ctl : Ctl) : wselField ctl = ctl.toNat % 16 := by
  rw [wselField, BitVec.extractLsb'_toNat, Nat.shiftRight_zero]

/-- R56: 0x1 to 0xB are the eleven operations in their order, and no value above selects one. -/
theorem opOfCode_succ (k : Nat) :
    opOfCode (k + 1) =
      [Op.shl, .shr, .rol, .ror, .add, .sub, .cnt1, .cnt0, .rev, .fenc, .fdec][k]? :=
  match k with
  | 0 | 1 | 2 | 3 | 4 | 5 | 6 | 7 | 8 | 9 | 10 => rfl
  | _ + 11 => rfl

/-- R57: 0x0 to 0x4 are the five widths in their order, and no value above selects one. -/
theorem widthOfCode_eq (m : Nat) : widthOfCode m = Config.WV[m]? :=
  match m with
  | 0 | 1 | 2 | 3 | 4 => rfl
  | _ + 5 => rfl

theorem opOfCode_reserved {n : Nat} (h : n = 0 ∨ 12 ≤ n) : opOfCode n = none := by
  cases n with
  | zero => rfl
  | succ k => rw [opOfCode_succ, List.getElem?_eq_none (show 11 ≤ k by omega)]

theorem widthOfCode_reserved {m : Nat} (h : 5 ≤ m) : widthOfCode m = none := by
  rw [widthOfCode_eq, List.getElem?_eq_none h]

/-- R56, R62: a defined `op` selects an operation, whose legal widths are those of its group of rows. -/
theorem opOfCode_defined {n : Nat} (h1 : 1 ≤ n) (h2 : n < 12) :
    ∃ op, opOfCode n = some op ∧
      op.legal.map Width.bits =
        if n ≤ 4 then [4, 8, 16, 32, 64] else if n ≤ 9 then [8, 16, 32, 64] else [32, 64] := by
  interval_cases n <;> exact ⟨_, rfl, rfl⟩

theorem widthOfCode_defined {m : Nat} (h : m < 5) : ∃ w, widthOfCode m = some w ∧ w.bits = 4 * 2 ^ m := by
  interval_cases m <;> exact ⟨_, rfl, rfl⟩

theorem Width.bits_injective : Function.Injective Width.bits := by
  intro v w
  cases v <;> cases w <;> decide

/-- R62: the table has a cell for exactly the legal pairs. -/
theorem instrAt_isSome (op : Op) (w : Width) : (instrAt op w).isSome = legalPair op w := by
  cases op <;> cases w <;> rfl

theorem parts_of_instrAt {op : Op} {w : Width} {i : Instr} (h : instrAt op w = some i) : i.parts = (op, w) := by
  cases op <;> cases w <;> cases h <;> rfl

section Decode

variable {ctl : Ctl} {op : Op} {w : Width}

/-- R64: a reserved `op` decides, whatever `wsel` is. -/
theorem decode_of_reserved_op (h : ctl.toNat / 16 = 0 ∨ 12 ≤ ctl.toNat / 16) : decode ctl = .error .illOp := by
  simp [decode, opOfCode_reserved h]

/-- R65: a reserved `wsel` beside a defined `op`. -/
theorem decode_of_reserved_width (h1 : 1 ≤ ctl.toNat / 16) (h2 : ctl.toNat / 16 < 12)
    (h : 5 ≤ ctl.toNat % 16) : decode ctl = .error .illWidth := by
  obtain ⟨op, hop, -⟩ := opOfCode_defined h1 h2
  simp [decode, hop, widthOfCode_reserved h]

/-- R63: a legal pair is its instruction. -/
theorem decode_of_legal (hop : opOfCode (ctl.toNat / 16) = some op) (hw : widthOfCode (ctl.toNat % 16) = some w)
    (h : w ∈ op.legal) : ∃ i, decode ctl = .ok i ∧ i.op = op ∧ i.width = w := by
  have hsome : (instrAt op w).isSome := by
    rw [instrAt_isSome, legalPair, List.contains_iff_mem]
    exact h
  obtain ⟨i, hi⟩ := Option.isSome_iff_exists.mp hsome
  have hparts := parts_of_instrAt hi
  exact ⟨i, by simp [decode, hop, hw, hi], congrArg Prod.fst hparts, congrArg Prod.snd hparts⟩

/-- R65: an operation that has not the selected width. -/
theorem decode_of_not_legal (hop : opOfCode (ctl.toNat / 16) = some op)
    (hw : widthOfCode (ctl.toNat % 16) = some w) (h : w ∉ op.legal) : decode ctl = .error .illWidth := by
  have hnone : instrAt op w = none := by
    rw [← Option.not_isSome_iff_eq_none, instrAt_isSome, legalPair, List.contains_iff_mem]
    exact h
  simp [decode, hop, hw, hnone]

end Decode

/-- R63, the last two branches: with both fields defined, the number W decides by the legal widths of the group. -/
theorem decode_of_defined {ctl : Ctl} {legal : List Nat} (h1 : 1 ≤ ctl.toNat / 16) (h2 : ctl.toNat / 16 < 12)
    (h3 : ctl.toNat % 16 < 5)
    (hlegal : legal = if ctl.toNat / 16 ≤ 4 then [4, 8, 16, 32, 64]
      else if ctl.toNat / 16 ≤ 9 then [8, 16, 32, 64] else [32, 64]) :
    (4 * 2 ^ (ctl.toNat % 16) ∉ legal → decode ctl = .error .illWidth) ∧
    (4 * 2 ^ (ctl.toNat % 16) ∈ legal →
      ∃ i, decode ctl = .ok i ∧ i.bits = 4 * 2 ^ (ctl.toNat % 16) ∧ opOfCode (ctl.toNat / 16) = some i.op) := by
  obtain ⟨op, hop, hbits⟩ := opOfCode_defined h1 h2
  obtain ⟨w, hw, hW⟩ := widthOfCode_defined h3
  rw [hlegal, ← hbits, ← hW, List.mem_map_of_injective Width.bits_injective]
  refine ⟨decode_of_not_legal hop hw, fun h => ?_⟩
  obtain ⟨i, hi, rfl, rfl⟩ := decode_of_legal hop hw h
  exact ⟨i, hi, rfl, hop⟩

/-- R65: the three causes of ILL_WIDTH, by the values of the two fields. -/
theorem decode_illWidth {ctl : Ctl} (h1 : 1 ≤ ctl.toNat / 16) (h2 : ctl.toNat / 16 < 12)
    (h : 5 ≤ ctl.toNat % 16 ∨
      (ctl.toNat / 16 ∈ [5, 6, 7, 8, 9] ∧ ctl.toNat % 16 = 0) ∨
      (ctl.toNat / 16 ∈ [10, 11] ∧ ctl.toNat % 16 ≤ 2)) : decode ctl = .error .illWidth := by
  simp only [List.mem_cons, List.not_mem_nil, or_false] at h
  obtain h | ⟨hop, hw⟩ | ⟨hop, hw⟩ := h
  · exact decode_of_reserved_width h1 h2 h
  · refine (decode_of_defined h1 h2 (by omega) rfl).1 ?_
    rw [if_neg (by omega), if_pos (by omega), hw]
    decide
  · refine (decode_of_defined h1 h2 (by omega) rfl).1 ?_
    rw [if_neg (by omega), if_neg (by omega)]
    interval_cases ctl.toNat % 16 <;> decide

/-! The three counts of R63, by evaluating the decoder on the 256 control words. -/

theorem count_legal :
    (List.range 256).countP (fun n => (decode (BitVec.ofNat 8 n)).toOption.isSome) = 44 := by decide +kernel

theorem count_illOp :
    (List.range 256).countP (fun n => decide (decode (BitVec.ofNat 8 n) = .error .illOp)) = 80 := by decide +kernel

theorem count_illWidth :
    (List.range 256).countP (fun n => decide (decode (BitVec.ofNat 8 n) = .error .illWidth)) = 132 := by decide +kernel

/-- Settles O9: one lemma for each branch of the pseudocode, and the three counts by evaluation. -/
theorem decoderFollowsThePseudocode : Obligations.DecoderFollowsThePseudocode := by
  refine ⟨fun ctl => ⟨decode_of_reserved_op, decode_of_reserved_width, fun h1 h2 h3 => ?_⟩,
    count_legal, count_illOp, count_illWidth⟩
  obtain ⟨hill, hok⟩ := decode_of_defined h1 h2 h3 rfl
  refine ⟨hill, fun h => ?_⟩
  obtain ⟨i, hi, hbits, hop⟩ := hok h
  refine ⟨i, hi, hbits, ?_⟩
  rw [← opOfCode_succ, Nat.sub_add_cancel h1, hop]

namespace Machine

/-! ### Illegal requests at the ports -/

/-- R126: a request that does not decode is answered with its code. -/
theorem transact_of_error {r : Request} {c : Illegal} (s : State) (h : decode r.ctl = .error c) :
    transact r s = (s.present r).answer (.illegal c) := by
  rw [transact_of_fault (step_of_error (s := s.present r) h), code_faultOf]

/-- R64, R65, R126: what a step and a transaction answer where the control word on the ports does not decode. -/
theorem illegal_on_ports {s : State} {c : Illegal} (h : decode s.ctl = .error c) :
    step s = .fault (faultOf c) ∧ (transact s.request s).st = some (statusOf c) ∧
      (transact s.request s).y = none := by
  rw [transact_of_error (r := s.request) s h]
  exact ⟨step_of_error h, rfl, rfl⟩

/-- Settles O10: the control word does not decode, with code ILL_OP (`decode_of_reserved_op`). -/
theorem reservedOperationIsIllOp : Obligations.ReservedOperationIsIllOp := by
  intro s h
  have hop : s.ctl.toNat / 16 = 0 ∨ 12 ≤ s.ctl.toNat / 16 := by
    simp only [List.mem_cons, List.not_mem_nil, or_false] at h
    omega
  obtain ⟨hstep, hst, hy⟩ := illegal_on_ports (decode_of_reserved_op hop)
  exact ⟨hstep, hst, hy, by omega⟩

/-- Settles O11: the control word does not decode, with code ILL_WIDTH (`decode_illWidth`). -/
theorem unavailableWidthIsIllWidth : Obligations.UnavailableWidthIsIllWidth :=
  ⟨fun _ h1 h2 h => illegal_on_ports (decode_illWidth h1 (Nat.lt_succ_of_le h2) h), count_illWidth⟩

/-! ### What an instruction reads -/

/-- The word an operation puts on `y`, as a function of all it may read: the operands A and B and the amount k. -/
def resultOf (op : Op) {W : Nat} (A B : BitVec W) (k : Nat) : Port :=
  match op with
  | .shl => resultPort (shlVec A k)
  | .shr => resultPort (shrVec A k)
  | .rol => resultPort (rolVec A k)
  | .ror => resultPort (rorVec A k)
  | .add => resultPort (addVec A B)
  | .sub => resultPort (subVec A B)
  | .cnt1 => resultPort (cnt1Vec A)
  | .cnt0 => resultPort (cnt0Vec A)
  | .rev => resultPort (revVec A)
  | .fenc => resultPort (fencVec A)
  | .fdec => resultPort (fdecVec A)

/-- R58 to R61: every instruction answers with its operation's result on the operands at its own width. -/
theorem exec_eq_resultOf (i : Instr) (s : State) :
    exec i s =
      .next (s.answer (.ok (resultOf i.op (operandA i.bits s) (operandB i.bits s) (amount s)))) := by
  cases i <;> rfl

/-- R60, R61: B counts for ADD and SUB only, and k for the shifter only. -/
theorem resultOf_congr {op : Op} {W : Nat} (A : BitVec W) {B B' : BitVec W} {k k' : Nat}
    (hB : op ∈ [Op.add, .sub] → B = B') (hk : op ∈ [Op.shl, .shr, .rol, .ror] → k = k') :
    resultOf op A B k = resultOf op A B' k' := by
  cases op with
  | shl | shr | rol | ror => rw [hk (by decide)]; rfl
  | add | sub => rw [hB (by decide)]; rfl
  | cnt1 | cnt0 | rev | fenc | fdec => rfl

/-- R59, R60: the lowest n wires of a port are all that its truncation to n holds. -/
theorem setWidth_eq_of_bit_eq {W n : Nat} {u v : BitVec W} (h : ∀ j, j < n → bit u j = bit v j) :
    u.setWidth n = v.setWidth n :=
  eq_of_bit_eq fun j hj => by rw [bit_setWidth u hj, bit_setWidth v hj, h j hj]

/-- Settles O15: the result is a function of the operands read (`exec_eq_resultOf`), on which the states agree. -/
theorem unreadWiresHaveNoEffect : Obligations.UnreadWiresHaveNoEffect := by
  intro i s t ha hb hk
  have hA : operandA i.bits s = operandA i.bits t := setWidth_eq_of_bit_eq ha
  have hres : resultOf i.op (operandA i.bits s) (operandB i.bits s) (amount s) =
      resultOf i.op (operandA i.bits t) (operandB i.bits t) (amount t) := by
    rw [hA]
    exact resultOf_congr _ (fun hop => setWidth_eq_of_bit_eq (hb hop)) (fun hop => congrArg uval (hk hop))
  refine ⟨_, exec_eq_resultOf i s, ?_⟩
  rw [hres]
  exact exec_eq_resultOf i t

end Machine

end Sys2Proof
end

section
/-! PROOFS. The family of `spec/40_shift_rotate.md`: what the four shifter operations answer, Bit by Bit. -/

namespace Sys2Proof

/-! ### The control word of an instruction, by its two fields -/

/-- R56: the value of `op` that selects an operation. -/
def Op.code : Op → Nat
  | .shl => 1
  | .shr => 2
  | .rol => 3
  | .ror => 4
  | .add => 5
  | .sub => 6
  | .cnt1 => 7
  | .cnt0 => 8
  | .rev => 9
  | .fenc => 10
  | .fdec => 11

theorem opOfCode_code (op : Op) : opOfCode op.code = some op := by cases op <;> rfl

theorem encode_div (i : Instr) : (encode i).toNat / 16 = i.op.code := by cases i <;> rfl

/-- R57: the width field of a control word names W as a power of two. -/
theorem four_mul_two_pow_encode_mod (i : Instr) : 4 * 2 ^ ((encode i).toNat % 16) = i.bits := by
  cases i <;> rfl

namespace Machine

/-! ### Running an instruction of a known operation, and the wires it reads -/

theorem encode_div_of_op {i : Instr} {op : Op} (h : i.op = op) : (encode i).toNat / 16 = op.code := h ▸ encode_div i

theorem exec_of_op {i : Instr} {op : Op} (h : i.op = op) (s : State) :
    exec i s = .next (s.answer (.ok (resultOf op (operandA i.bits s) (operandB i.bits s) (amount s)))) :=
  h ▸ exec_eq_resultOf i s

/-- R59: the operand A is the wires of `a` below W. -/
theorem bit_operandA {W j : Nat} (s : State) (h : j < W) : bit (operandA W s) j = bit s.a j := bit_setWidth s.a h

/-! ### The two rotations, index by index -/

/-- R82 from the side of the operand: the Bit at index j moves to index `(j + k mod W) mod W`, since going back by
`k mod W` from there, round the end where needed, arrives at j again. -/
theorem bit_rolVec_moved {W j : Nat} (A : BitVec W) (k : Nat) (hj : j < W) :
    bit (rolVec A k) ((j + k % W) % W) = bit A j := by
  have hW : 0 < W := Nat.zero_lt_of_lt hj
  have hr : k % W < W := Nat.mod_lt k hW
  have hback : ((j + k % W) % W + (W - k % W)) % W = j := by
    rw [Nat.mod_add_mod, Nat.add_assoc, Nat.add_sub_cancel' hr.le, Nat.add_mod_right, Nat.mod_eq_of_lt hj]
  rw [bit_rolVec A k (Nat.mod_lt _ hW), hback]

/-! ### The four statements -/

/-- Settles O17: the result is `shlVec` of the operand, whose index j reads the wire `j - k` of `a`. -/
theorem shiftLeftCompletes : Obligations.ShiftLeftCompletes := by
  intro i hi s
  have hop : i.op = .shl := by
    revert i
    decide
  refine ⟨encode_div_of_op hop, four_mul_two_pow_encode_mod i, shlVec (operandA i.bits s) s.b.toNat,
    exec_of_op hop s, shlVec_of_ge _, fun hk j hj => ?_⟩
  rw [bit_shlVec _ hk hj, bit_operandA s (Nat.lt_of_le_of_lt (Nat.sub_le _ _) hj)]

/-- Settles O18: the result is `shrVec` of the operand; where index j reads the wire `j + k` of `a`, that wire is
below W. -/
theorem shiftRightCompletes : Obligations.ShiftRightCompletes := by
  intro i hi s
  have hop : i.op = .shr := by
    revert i
    decide
  refine ⟨encode_div_of_op hop, four_mul_two_pow_encode_mod i, shrVec (operandA i.bits s) s.b.toNat,
    exec_of_op hop s, shrVec_of_ge _, fun hk j hj => ?_⟩
  rw [bit_shrVec _ hk hj]
  split
  case isTrue h => exact bit_operandA s (by omega)
  case isFalse => rfl

/-- Settles O19: the result is `rolVec` of the operand, which moves each Bit as R82 says (`bit_rolVec_moved`). -/
theorem rotateLeftCompletes : Obligations.RotateLeftCompletes := by
  intro i hi s
  have hop : i.op = .rol := by
    revert i
    decide
  refine ⟨encode_div_of_op hop, four_mul_two_pow_encode_mod i, rolVec (operandA i.bits s) s.b.toNat,
    exec_of_op hop s, fun j hj => ?_⟩
  rw [bit_rolVec_moved _ _ hj, bit_operandA s hj]

/-- Settles O20: the result is `rorVec` of the operand, whose index j reads a wire of `a` that is below W by the
reduction modulo W. -/
theorem rotateRightCompletes : Obligations.RotateRightCompletes := by
  intro i hi s
  have hop : i.op = .ror := by
    revert i
    decide
  refine ⟨encode_div_of_op hop, four_mul_two_pow_encode_mod i, rorVec (operandA i.bits s) s.b.toNat,
    exec_of_op hop s, fun j hj => ?_⟩
  rw [bit_rorVec _ _ hj, bit_operandA s (Nat.mod_lt _ (Nat.zero_lt_of_lt hj))]

end Machine

end Sys2Proof
end

section
/-! PROOFS. The family of `spec/41_add_sub.md`: the two cells, and what ADD and SUB answer as a chain of cells. -/

namespace Sys2Proof.Machine

/-! ### The two cells -/

theorem fullAdder_eq (a b c : Bit) :
    fullAdder a b c = ((a.xor b).xor c, ((a.and b).or (a.and c)).or (b.and c)) := rfl

theorem fullSubtractor_eq (a b c : Bit) :
    fullSubtractor a b c = ((a.xor b).xor c, (b.and a.not).or (c.and (a.xor b).not)) := rfl

/-- Settles O23: the equations are the cells' definitions, and each row of the two tables is one evaluation. -/
theorem fullCellsByEquationAndTable : Obligations.FullCellsByEquationAndTable :=
  ⟨fun a b c => ⟨fullAdder_eq a b c, fullSubtractor_eq a b c⟩, by decide⟩

/-! ### The chain of cells on the wires of the ports -/

/-- R60: the operand B of ADD and SUB is the wires of `b` below W. -/
theorem bit_operandB {W j : Nat} (s : State) (h : j < W) : bit (operandB W s) j = bit s.b j := bit_setWidth s.b h

/-- R92, R95: below W, the result's Bit at j and the carry (or borrow) into position j + 1 are the two outputs of the
cell at position j, fed by the wires j of `a` and `b` and by the carry (or borrow) into position j. -/
theorem ripple_operands_cell (cell : Bit → Bit → Bit → Bit × Bit) (s : State) {W j : Nat} (hj : j < W) :
    (bit (ripple cell (operandA W s) (operandB W s) W).1 j,
      (ripple cell (operandA W s) (operandB W s) (j + 1)).2) =
    cell (bit s.a j) (bit s.b j) (ripple cell (operandA W s) (operandB W s) j).2 := by
  rw [bit_ripple _ _ _ hj, ripple_succ, bit_operandA s hj, bit_operandB s hj]

/-- Settles O24: the chain is the carry of `addTo` at each position, and the cell at every position is the full adder
(`ripple_operands_cell`). -/
theorem addCompletesByRippleCarry : Obligations.AddCompletesByRippleCarry := by
  intro i hi s
  have hop : i.op = .add := by
    revert i
    decide
  refine ⟨encode_div_of_op hop, four_mul_two_pow_encode_mod i, addVec (operandA i.bits s) (operandB i.bits s),
    fun n => (addTo (operandA i.bits s) (operandB i.bits s) n).2, exec_of_op hop s, rfl, fun j hj => ?_⟩
  have hcell := ripple_operands_cell fullAdder s hj
  rw [fullAdder_eq] at hcell
  exact Prod.mk.inj hcell

/-- Settles O25: the chain is the borrow of `subTo` at each position, and the cell at every position is the full
subtractor (`ripple_operands_cell`). -/
theorem subtractCompletesByRippleBorrow : Obligations.SubtractCompletesByRippleBorrow := by
  intro i hi s
  have hop : i.op = .sub := by
    revert i
    decide
  refine ⟨encode_div_of_op hop, four_mul_two_pow_encode_mod i, subVec (operandA i.bits s) (operandB i.bits s),
    fun n => (subTo (operandA i.bits s) (operandB i.bits s) n).2, exec_of_op hop s, rfl, fun j hj => ?_⟩
  have hcell := ripple_operands_cell fullSubtractor s hj
  rw [fullSubtractor_eq] at hcell
  exact Prod.mk.inj hcell

end Sys2Proof.Machine
end

section
/-! PROOFS. The family of `spec/42_popcount_reverse.md`: the two counts as numbers, and the reversal index by index. -/

namespace Sys2Proof

theorem Width.bits_le (w : Width) : w.bits ≤ 64 := by cases w <;> decide

namespace Machine

variable {W : Nat}

/-! ### The counting loop -/

/-- R100, R101: the loop counts the indices below n at which A holds x, one index a turn. -/
theorem countTo_eq_countP (x : Bit) (A : BitVec W) (n : Nat) :
    countTo x A n = (List.range n).countP fun j => decide (bit A j = x) := by
  induction n with
  | zero => rfl
  | succ n ih =>
    rw [countTo_succ, ih, List.range_succ, List.countP_append, List.countP_singleton]
    simp only [decide_eq_true_eq]

/-- R101: the count over the operand is the count over the wires of `a` below W, and no wire above is counted. -/
theorem countTo_operandA (x : Bit) (s : State) (W : Nat) :
    countTo x (operandA W s) W = (List.range W).countP fun j => decide (bit s.a j = x) := by
  rw [countTo_eq_countP]
  refine List.countP_congr fun j hj => ?_
  rw [bit_operandA s (List.mem_range.mp hj)]

/-- R102: each position holds One or Zero and not both, so each adds one to exactly one of the two counts. -/
theorem countTo_one_add_countTo_zero (A : BitVec W) (n : Nat) : countTo .one A n + countTo .zero A n = n := by
  induction n with
  | zero => rfl
  | succ n ih =>
    rw [countTo_succ, countTo_succ]
    cases bit A n <;> simp <;> omega

/-! ### Seven bits hold a count -/

/-- R105: the largest count is 64, and 7 bits hold it. -/
theorem uval_vec_countTo (x : Bit) (A : BitVec W) (h : W ≤ 64) : uval (vec 7 (countTo x A W)) = countTo x A W := by
  have := countTo_le x A W
  rw [uval_vec, Nat.mod_eq_of_lt (by omega)]

/-- R58: the port holds the number that a narrower result is. -/
theorem toNat_resultPort (Y : BitVec W) (h : W ≤ 64) : (resultPort Y).toNat = uval Y :=
  BitVec.toNat_setWidth_of_le h

/-- R100, R101: what an instruction answers that puts the count of the Bit x on `y`. -/
theorem count_completes {i : Instr} {x : Bit} {s : State}
    (h : exec i s = .next (s.answer (.ok (resultPort (vec 7 (countTo x (operandA i.bits s) i.bits)))))) :
    ∃ N, N = (List.range i.bits).countP (fun j => decide (bit s.a j = x)) ∧ N ≤ i.bits ∧
      exec i s = .next { s with rsp := some (.ok ((vec 7 N).setWidth 64)) } ∧
      ((vec 7 N).setWidth 64).toNat = N :=
  ⟨countTo x (operandA i.bits s) i.bits, countTo_operandA x s i.bits, countTo_le _ _ _, h,
    (toNat_resultPort _ (by decide)).trans (uval_vec_countTo _ _ (Width.bits_le _))⟩

/-! ### The four statements -/

/-- Settles O30: the result is `cnt1Vec` of the operand, the count of the Bit One (`count_completes`). -/
theorem countOnesCompletes : Obligations.CountOnesCompletes := by
  intro i hi s
  have hop : i.op = .cnt1 := by
    revert i
    decide
  exact ⟨encode_div_of_op hop, four_mul_two_pow_encode_mod i, count_completes (exec_of_op hop s)⟩

/-- Settles O31: the result is `cnt0Vec` of the operand, the count of the Bit Zero (`count_completes`). -/
theorem countZerosCompletes : Obligations.CountZerosCompletes := by
  intro i hi s
  have hop : i.op = .cnt0 := by
    revert i
    decide
  exact ⟨encode_div_of_op hop, four_mul_two_pow_encode_mod i, count_completes (exec_of_op hop s)⟩

/-- Settles O32: the two loops share out the W positions (`countTo_one_add_countTo_zero`), and 7 bits lose nothing of
either count (`uval_vec_countTo`). -/
theorem countsAddUpToTheWidth : Obligations.CountsAddUpToTheWidth := by
  intro w _ x
  have hsum := countTo_one_add_countTo_zero x w.bits
  have hones : uval (cnt1Vec x) = countTo .one x w.bits := uval_vec_countTo .one x w.bits_le
  have hzeros : uval (cnt0Vec x) = countTo .zero x w.bits := uval_vec_countTo .zero x w.bits_le
  rw [hones, hzeros]
  exact ⟨hsum, congrArg (vec 7) (Nat.eq_sub_of_add_eq' hsum)⟩

/-- Settles O33: the result is `revVec` of the operand, whose index j reads the wire `W - 1 - j` of `a`, below W. -/
theorem reverseCompletes : Obligations.ReverseCompletes := by
  intro i hi s
  have hop : i.op = .rev := by
    revert i
    decide
  refine ⟨encode_div_of_op hop, four_mul_two_pow_encode_mod i, revVec (operandA i.bits s), exec_of_op hop s,
    fun j hj => ?_⟩
  rw [bit_revVec _ hj, bit_operandA s (by omega)]

end Machine

end Sys2Proof
end

section
/-! PROOFS. The family of `spec/43_ieee754.md`: FENC and FDEC pass every word unchanged, so each undoes the other. -/

namespace Sys2Proof.Machine

variable {W : Nat}

/-! ### The two conversions as functions on words -/

/-- R110: FENC is the identity on words, since it keeps the Bit at every index. -/
theorem fencVec_eq (A : BitVec W) : fencVec A = A := eq_of_bit_eq fun _ => bit_fencVec A

/-- R111: FDEC is the identity on words, since it keeps the Bit at every index. -/
theorem fdecVec_eq (A : BitVec W) : fdecVec A = A := eq_of_bit_eq fun _ => bit_fdecVec A

/-- R110, R111: both conversions put the operand itself on `y`. -/
theorem resultOf_conversion {op : Op} (h : op = .fenc ∨ op = .fdec) (A B : BitVec W) (k : Nat) :
    resultOf op A B k = resultPort A := by
  obtain rfl | rfl := h
  · exact congrArg resultPort (fencVec_eq A)
  · exact congrArg resultPort (fdecVec_eq A)

theorem code_conversion {op : Op} (h : op = .fenc ∨ op = .fdec) : op.code = if op = .fenc then 0xA else 0xB := by
  obtain rfl | rfl := h <;> rfl

theorem exec_conversion {i : Instr} (h : i.op = .fenc ∨ i.op = .fdec) (s : State) :
    exec i s = .next (s.answer (.ok (resultPort (operandA i.bits s)))) := by
  rw [exec_eq_resultOf, resultOf_conversion h]

/-- Settles O35: the result is the operand itself (`exec_conversion`), whose index j is the wire j of `a`. -/
theorem floatConversionsComplete : Obligations.FloatConversionsComplete := by
  refine ⟨by decide, fun i hi s => ?_⟩
  have hop : i.op = .fenc ∨ i.op = .fdec := by
    revert i
    decide
  exact ⟨(encode_div i).trans (code_conversion hop), four_mul_two_pow_encode_mod i, operandA i.bits s,
    exec_conversion hop s, fun _ hj => bit_operandA s hj⟩

/-! ### The conversions at the ports -/

/-- R110, R111: a conversion answers with the word presented on `a`, where that word is Zero on the wires it does
not read. -/
theorem y_transact_conversion {c : Ctl} {i : Instr} {a : Port} (hc : decode c = .ok i)
    (hop : i.op = .fenc ∨ i.op = .fdec) (ha : (a.setWidth i.bits).setWidth 64 = a) (b : Port) (s : State) :
    (transact ⟨c, a, b⟩ s).y = some a := by
  have hstep := (step_of_ok (s := s.present ⟨c, a, b⟩) hc).trans (exec_conversion hop _)
  rw [transact_of_next hstep]
  exact congrArg some ha

/-- Settles O36: in both orders each of the two conversions answers with the word presented to it
(`y_transact_conversion`); a 32-bit word on a port is Zero above its 32 wires, and at W = 64 all wires are read. -/
theorem floatRoundTripAtThePorts : Obligations.FloatRoundTripAtThePorts := by
  constructor
  · intro x b b' s
    have hx : ((x.setWidth 64).setWidth 32).setWidth 64 = x.setWidth 64 := by
      rw [BitVec.setWidth_setWidth_of_le x (by decide), BitVec.setWidth_eq]
    have henc := y_transact_conversion (c := 0xA3) (i := .fenc32) rfl (.inl rfl) hx
    have hdec := y_transact_conversion (c := 0xB3) (i := .fdec32) rfl (.inr rfl) hx
    exact ⟨_, _, henc b s, hdec b' _, hdec b s, henc b' _⟩
  · intro x b b' s
    have hx : (x.setWidth 64).setWidth 64 = x := by rw [BitVec.setWidth_eq, BitVec.setWidth_eq]
    have henc := y_transact_conversion (c := 0xA4) (i := .fenc64) rfl (.inl rfl) hx
    have hdec := y_transact_conversion (c := 0xB4) (i := .fdec64) rfl (.inr rfl) hx
    exact ⟨_, _, henc b s, hdec b' _, hdec b s, henc b' _⟩

end Sys2Proof.Machine
end

section
/-! PROOFS. The family of `spec/60_exceptions.md`: the status as a function of the control word alone, what a
transaction leaves for the next one, and banks of instances. -/

namespace Sys2Proof

/-! ### The causes of the two codes -/

/-- R64: a reserved `op` is the only cause of ILL_OP. Beside a defined `op`, every branch of the decoder answers
ILL_WIDTH or an instruction. -/
theorem decode_eq_illOp_iff {ctl : Ctl} :
    decode ctl = .error .illOp ↔ ctl.toNat / 16 = 0 ∨ 12 ≤ ctl.toNat / 16 := by
  refine ⟨fun h => ?_, decode_of_reserved_op⟩
  by_contra hop
  obtain ⟨op, hcode, -⟩ := opOfCode_defined (n := ctl.toNat / 16) (by omega) (by omega)
  cases hw : widthOfCode (ctl.toNat % 16) with
  | none => simp [decode, hcode, hw] at h
  | some w =>
    by_cases hlegal : w ∈ op.legal
    · obtain ⟨i, hi, -⟩ := decode_of_legal hcode hw hlegal
      simp [hi] at h
    · simp [decode_of_not_legal hcode hw hlegal] at h

/-- R65: ILL_WIDTH is the code of the control words that do not decode although their `op` is defined. -/
theorem decode_eq_illWidth_iff {ctl : Ctl} :
    decode ctl = .error .illWidth ↔
      (1 ≤ ctl.toNat / 16 ∧ ctl.toNat / 16 < 12) ∧ ∀ i, decode ctl ≠ .ok i := by
  have hdefined : (1 ≤ ctl.toNat / 16 ∧ ctl.toNat / 16 < 12) ↔ decode ctl ≠ .error .illOp := by
    rw [Ne, decode_eq_illOp_iff]
    omega
  rw [hdefined]
  cases decode ctl with
  | ok i => simp
  | error c => cases c <;> simp

namespace Machine

/-! ### The status of a control word -/

/-- R125, R128: the status of a request, from its control word alone (`transact_st`). -/
def statusOfCtl (ctl : Ctl) : BitVec 2 :=
  match decode ctl with
  | .ok _ => 0
  | .error c => statusOf c

section StatusOfCtl

variable {ctl : Ctl}

theorem statusOfCtl_of_ok {i : Instr} (h : decode ctl = .ok i) : statusOfCtl ctl = 0 := by simp [statusOfCtl, h]

theorem statusOfCtl_of_error {c : Illegal} (h : decode ctl = .error c) : statusOfCtl ctl = statusOf c := by
  simp [statusOfCtl, h]

theorem statusOfCtl_eq_zero_iff : statusOfCtl ctl = 0 ↔ ∃ i, decode ctl = .ok i := by
  cases h : decode ctl with
  | ok i => simp [statusOfCtl_of_ok h]
  | error c => cases c <;> simp [statusOfCtl_of_error h, statusOf]

theorem statusOfCtl_eq_statusOf_iff {c : Illegal} : statusOfCtl ctl = statusOf c ↔ decode ctl = .error c := by
  cases h : decode ctl with
  | ok i => cases c <;> simp [statusOfCtl_of_ok h, statusOf]
  | error d => cases c <;> cases d <;> simp [statusOfCtl_of_error h, statusOf]

theorem statusOfCtl_ne_three : statusOfCtl ctl ≠ 3 := by
  cases h : decode ctl with
  | ok i => simp [statusOfCtl_of_ok h]
  | error c => cases c <;> simp [statusOfCtl_of_error h, statusOf]

end StatusOfCtl

/-! ### The response of a transaction -/

/-- R130: a legal request is answered with a result, by the meaning of its instruction. -/
theorem transact_of_ok {r : Request} {i : Instr} (s : State) (h : decode r.ctl = .ok i) :
    ∃ y, transact r s = (s.present r).answer (.ok y) ∧ exec i (s.present r) = .next (transact r s) := by
  obtain ⟨y, hy⟩ := exec_completes i (s.present r)
  have htransact := transact_of_next ((step_of_ok (s := s.present r) h).trans hy)
  exact ⟨y, htransact, htransact ▸ hy⟩

/-- R125, R128: the status port after a transaction. -/
theorem transact_st (r : Request) (s : State) : (transact r s).st = some (statusOfCtl r.ctl) := by
  cases h : decode r.ctl with
  | ok i =>
    obtain ⟨y, hy, -⟩ := transact_of_ok s h
    rw [hy, statusOfCtl_of_ok h]
    rfl
  | error c =>
    rw [transact_of_error s h, statusOfCtl_of_error h]
    rfl

/-- Settles O12: the status is that of the control word (`transact_st`), which each code fixes by its cause, and a
legal request is answered by the meaning of its instruction (`transact_of_ok`). -/
theorem statusPortSaysWhy : Obligations.StatusPortSaysWhy := by
  intro r s
  simp only [transact_st, Option.some.injEq, ne_eq]
  refine ⟨statusOfCtl_eq_zero_iff, fun i hi => ?_, ?_, ?_, statusOfCtl_ne_three, Option.some_ne_none _⟩
  · obtain ⟨y, hy, hexec⟩ := transact_of_ok s hi
    exact ⟨y, by rw [hy]; rfl, hexec⟩
  · exact statusOfCtl_eq_statusOf_iff.trans decode_eq_illOp_iff
  · exact statusOfCtl_eq_statusOf_iff.trans decode_eq_illWidth_iff

/-- Settles O13: the status is that of the control word (`transact_st`), so no operand counts, and a reserved `op`
alone makes it ILL_OP. -/
theorem operationIsExaminedFirst : Obligations.OperationIsExaminedFirst := by
  have hreserved : ∀ (r : Request) (s : State),
      r.ctl.toNat / 16 = 0 ∨ 12 ≤ r.ctl.toNat / 16 → (transact r s).st = some 1 := fun r s hop => by
    rw [transact_st, statusOfCtl_of_error (decode_of_reserved_op hop)]
    rfl
  have h0F : (0x0F : Ctl).toNat / 16 = 0 := by decide
  have hC9 : 12 ≤ (0xC9 : Ctl).toNat / 16 := by decide
  refine ⟨hreserved, fun s => ⟨hreserved _ s (.inl h0F), hreserved _ s (.inr hC9)⟩, fun r r' s s' h => ?_⟩
  rw [transact_st, transact_st, h]
/-! ### What a transaction leaves for the next one -/

/-- R127: a request presented drives all input ports and clears the response, so nothing of the state before is
left. -/
theorem State.present_eq_present (r : Request) (s t : State) : s.present r = t.present r := rfl

/-- R126, R127: a transaction answers as it would from any other state. -/
theorem transact_eq_transact (r : Request) (s t : State) : transact r s = transact r t := by
  rw [transact, State.present_eq_present r s t, transact]

/-- Settles O14: the request is answered with its code on the ports that hold it (`transact_of_error`), and the next
transaction does not depend on the state it starts from (`transact_eq_transact`). -/
theorem illegalRequestDoesNoHarm : Obligations.IllegalRequestDoesNoHarm := by
  intro r r' s c h
  have hnext := transact_eq_transact r' (transact r s) s
  rw [transact_of_error s h] at hnext ⊢
  exact ⟨step_of_error h, rfl, rfl, rfl, hnext⟩

/-! ### Banks of instances -/

/-- Settles O45: a transaction modifies the one entry j of the bank, and its response is that of a block just reset
(`transact_eq_transact`). -/
theorem instancesShareNothing : Obligations.InstancesShareNothing := by
  intro m j r
  refine ⟨List.length_modify _ _ _, fun k hk => List.getElem?_modify_ne _ _ (Ne.symm hk), fun s hs => ?_⟩
  refine ⟨transact r s, ?_, congrArg State.rsp (transact_eq_transact r s State.reset)⟩
  rw [Bank.transactAt, List.getElem?_modify_eq, hs, Option.map_eq_map, Option.map_some]

end Machine
end Sys2Proof
end

section
/-! PROOFS. The Bit algebra by its tables, and slices, concatenation and widenings index by index
(`spec/00_scope.md` sections 4 and 5). -/

namespace Sys2Proof

/-! ### The Bit algebra -/

/-- Settles O1: the four rows of the tables, one for each pair of Bits. -/
theorem bitAlgebraIsBoolean : Obligations.BitAlgebraIsBoolean := by
  intro x y
  cases x <;> cases y <;> decide

theorem Bit.xnor_eq_one_iff (x y : Bit) : x.xnor y = .one ↔ x = y := by cases x <;> cases y <;> decide

/-- Settles O2: the equality test and XNOR both single out the pairs of equal Bits (`Bit.is_iff`,
`Bit.xnor_eq_one_iff`), and the two conversions are inverse on each side. -/
theorem equalityTestAndPredicateValue : Obligations.EqualityTestAndPredicateValue :=
  ⟨fun x y => ⟨Bit.is_iff x y, (Bit.is_iff x y).trans (Bit.xnor_eq_one_iff x y).symm⟩, Bit.toBool_zero, Bit.toBool_one,
    Bit.ofBool_toBool, Bit.toBool_ofBool⟩

/-! ### Slices, concatenation and widenings -/

theorem bit_slice {W : Nat} (v : BitVec W) {hi lo j : Nat} (h : j < hi - lo + 1) :
    bit (slice v hi lo) j = bit v (lo + j) := bit_ofBits _ h

section Concat

variable {m n j : Nat} (x : BitVec m) (y : BitVec n)

theorem bit_concat_low (h : j < n) : bit (concat x y) j = bit y j := by
  simp [bit, concat, BitVec.getLsbD_append, h]

theorem bit_concat_high : bit (concat x y) (n + j) = bit x j := by
  simp [bit, concat, BitVec.getLsbD_append]

end Concat

section Widen

variable {W N j : Nat} (v : BitVec W)

theorem bit_zext (h : j < N) : bit (zext N v) j = bit v j := bit_setWidth v h

theorem bit_sext_low (h : j < W) (hN : j < N) : bit (sext N v) j = bit v j := by
  rw [bit, sext, BitVec.getLsbD_signExtend, if_pos h, decide_eq_true hN, Bool.true_and, bit]

/-- R8: above the positions of v, sext holds the top Bit of v. -/
theorem bit_sext_high (h : W ≤ j) (hN : j < N) : bit (sext N v) j = bit v (W - 1) := by
  rw [bit, sext, BitVec.getLsbD_signExtend, if_neg h.not_gt, decide_eq_true hN, Bool.true_and,
    BitVec.msb_eq_getLsbD_last, bit]

end Widen

/-- Settles O4: one lemma for each operator and each range of indices; the position of a vector above its width
reads as Zero (`bit_of_ge`), and so does `zext` there. -/
theorem slicesAndWideningsByIndex : Obligations.SlicesAndWideningsByIndex := by
  refine ⟨fun W hi lo v _ j hj => bit_slice v hj,
    fun m n x y => ⟨fun j => bit_concat_low x y, fun j _ => bit_concat_high x y⟩, fun W N v hWN => ⟨?_, ?_⟩⟩
  · intro j hj
    have hN : j < N := hj.trans_le hWN
    exact ⟨bit_zext v hN, bit_sext_low v hj hN⟩
  · intro j hj hN
    exact ⟨(bit_zext v hN).trans (bit_of_ge v hj), bit_sext_high v hj hN⟩

end Sys2Proof
end

section
/-! PROOFS. The decoder and the encoder agree, and a step is the meaning of the decoded instruction
(`spec/30_encoding.md` section 3, `spec/10_state.md` R21). -/

namespace Sys2Proof

/-! ### Decoding and encoding -/

/-- R62: every cell of the table decodes to its instruction. -/
theorem decode_encode (i : Instr) : decode (encode i) = .ok i := by cases i <;> rfl

theorem Instr.wellFormed_eq_true (i : Instr) : i.wellFormed = true := by cases i <;> rfl

/-- R56: no two values of `op` select the same operation. -/
theorem eq_code_of_opOfCode {n : Nat} {op : Op} (h : opOfCode n = some op) : n = op.code := by
  unfold opOfCode at h
  split at h <;> cases h <;> rfl

/-- R57: a value of `wsel` is known by the W of the width that it selects. -/
theorem bits_of_widthOfCode {m : Nat} {w : Width} (h : widthOfCode m = some w) : w.bits = 4 * 2 ^ m := by
  unfold widthOfCode at h
  split at h <;> cases h <;> rfl

/-- The inversion of the decoder: the fields of a control word that decodes select the operation and the width of its
instruction. -/
theorem fields_of_decode {ctl : Ctl} {i : Instr} (h : decode ctl = .ok i) :
    opOfCode (ctl.toNat / 16) = some i.op ∧ widthOfCode (ctl.toNat % 16) = some i.width := by
  simp only [decode, opField_eq, wselField_eq] at h
  split at h
  · cases h
  next op hop =>
    split at h
    · cases h
    next w hw =>
      split at h
      · cases h
      next j hj =>
        cases h
        have hparts := parts_of_instrAt hj
        rw [hop, hw, Instr.op, Instr.width, hparts]
        exact ⟨rfl, rfl⟩

/-- R62: a control word that decodes has the same two fields as the cell of its instruction, so it is that cell. -/
theorem encode_of_decode {ctl : Ctl} {i : Instr} (h : decode ctl = .ok i) : encode i = ctl := by
  obtain ⟨hop, hw⟩ := fields_of_decode h
  have hhigh : (encode i).toNat / 16 = ctl.toNat / 16 := (encode_div i).trans (eq_code_of_opOfCode hop).symm
  have hlow : (encode i).toNat % 16 = ctl.toNat % 16 := by
    have hpow := (four_mul_two_pow_encode_mod i).trans (bits_of_widthOfCode hw)
    exact Nat.pow_right_injective (le_refl 2) (Nat.eq_of_mul_eq_mul_left (by decide) hpow)
  exact BitVec.eq_of_toNat_eq (by omega)

/-- Settles O7: `decode_encode` in one direction and `encode_of_decode` in the other; every instruction's pair is in
its operation's row of the table. -/
theorem decodeAndEncodeAgree : Obligations.DecodeAndEncodeAgree :=
  ⟨fun i => ⟨i.wellFormed_eq_true, decode_encode i⟩, fun _ _ => encode_of_decode⟩

/-- Settles O8: each written word is the cell of its instruction, which decodes to it (`decode_encode`). -/
theorem writtenControlWordsDecode : Obligations.WrittenControlWordsDecode :=
  ⟨decode_encode .shl4, decode_encode .shr8, decode_encode .rol16, decode_encode .ror32, decode_encode .add64,
    decode_encode .sub8, decode_encode .cnt1w16, decode_encode .cnt0w32, decode_encode .rev64, decode_encode .fenc32,
    decode_encode .fdec64⟩

/-! ### Control words from the table, placed on the port -/

/-- R67: a table word of at least eight bits holds the whole control word. -/
theorem ofNat_encode_mod (i : Instr) {nbits : Nat} (h : 8 ≤ nbits) :
    BitVec.ofNat 8 ((encode i).toNat % 2 ^ nbits) = encode i := by
  have hlt : (encode i).toNat < 2 ^ nbits := (encode i).isLt.trans_le (Nat.pow_le_pow_right (by decide) h)
  rw [Nat.mod_eq_of_lt hlt, BitVec.ofNat_toNat, BitVec.setWidth_eq]

theorem decodeTableWord_encode (i : Instr) {nbits : Nat} (h : 8 ≤ nbits) :
    decodeTableWord nbits (encode i).toNat = some i := by
  simp [decodeTableWord, ofNat_encode_mod i h, decode_encode]

namespace Machine

/-- Settles O6: the placed word is the control word (`ofNat_encode_mod`), which decodes to the instruction. -/
theorem placedControlWordIsRun : Obligations.PlacedControlWordIsRun := by
  intro i s nbits h
  have hctl : decode (s.withFetchWord nbits (encode i).toNat).ctl = .ok i := by
    rw [State.withFetchWord_ctl, ofNat_encode_mod i h, decode_encode]
  exact ⟨decodeTableWord_encode i h, step_of_ok hctl, State.withFetchWord_a _ _ _, State.withFetchWord_b _ _ _⟩

/-- Settles O5: the two branches of `step`. -/
theorem stepRunsTheDecodedInstruction : Obligations.StepRunsTheDecodedInstruction :=
  fun _ => ⟨fun _ => step_of_ok, step_of_error, step_of_error⟩

end Machine

end Sys2Proof
end

section
/-! PROOFS. A step reads the request on the ports and nothing else, so neither an earlier response nor an abandoned
transaction nor the reset counts (`spec/10_state.md` R21, R33; `spec/20_memory.md` R45, R47;
`spec/70_reset_and_hazards.md` R145, R147, R152, R154). -/

namespace Sys2Proof.Machine

/-! ### Steps -/

/-- R21: two states with the same request differ in the response only, and answering overwrites that. -/
theorem State.answer_eq_answer {s t : State} (h : s.request = t.request) (r : Response) : s.answer r = t.answer r := by
  obtain ⟨hctl, ha, hb⟩ := Request.mk.inj h
  simp only [State.answer, hctl, ha, hb]

theorem exec_congr {s t : State} (h : s.request = t.request) (i : Instr) : exec i s = exec i t := by
  have ha : s.a = t.a := congrArg Request.a h
  have hb : s.b = t.b := congrArg Request.b h
  rw [exec_eq_resultOf, exec_eq_resultOf, State.answer_eq_answer h, operandA, operandB, amount, ha, hb]
  rfl

theorem step_congr {s t : State} (h : s.request = t.request) : step s = step t := by
  have hctl : s.ctl = t.ctl := congrArg Request.ctl h
  cases hd : decode s.ctl with
  | ok i => rw [step_of_ok hd, step_of_ok (hctl ▸ hd), exec_congr h]
  | error c => rw [step_of_error hd, step_of_error (hctl ▸ hd)]

/-- Settles O41: decoding reads `ctl` and each meaning reads `a` and `b` (`step_congr`). -/
theorem stepDependsOnTheRequestAlone : Obligations.StepDependsOnTheRequestAlone := fun _ _ => step_congr

theorem step_keeps_request {s s' : State} (h : step s = .next s') : s'.request = s.request := by
  obtain ⟨i, -, hi⟩ := step_next h
  obtain ⟨y, rfl⟩ := exec_next hi
  exact State.answer_request _ s

/-- Settles O43: the request is still on the ports (`step_keeps_request`), and it decides the step (`step_congr`). -/
theorem stepIsIdempotent : Obligations.StepIsIdempotent := fun _ _ h => (step_congr (step_keeps_request h)).trans h

/-- Settles O47: abandoning keeps the request, which decides the step (`step_congr`), and no transaction depends on the
state it starts from (`transact_eq_transact`). -/
theorem abandoningATransactionHasNoEffect : Obligations.AbandoningATransactionHasNoEffect := fun s =>
  ⟨s.abandon_request, rfl, rfl, step_congr s.abandon_request, fun r => transact_eq_transact r s.abandon s⟩

/-- Settles O48: no transaction depends on the state it starts from (`transact_eq_transact`); the control word zero of
the reset state has a reserved `op`. -/
theorem firstTransactionIsAsEveryOther : Obligations.FirstTransactionIsAsEveryOther :=
  ⟨fun r s => transact_eq_transact r State.reset s, rfl, rfl, rfl, rfl, rfl,
    step_of_error (decode_of_reserved_op (.inl rfl))⟩

/-! ### Responses -/

theorem rsp_transact (r : Request) (s : State) : (transact r s).rsp = respond r :=
  congrArg State.rsp (transact_eq_transact r s State.reset)

theorem respond_of_ok {r : Request} {i : Instr} (h : decode r.ctl = .ok i) : ∃ y, respond r = some (.ok y) := by
  obtain ⟨y, hy, -⟩ := transact_of_ok State.reset h
  exact ⟨y, congrArg State.rsp hy⟩

theorem respond_of_error {r : Request} {c : Illegal} (h : decode r.ctl = .error c) :
    respond r = some (.illegal c) := congrArg State.rsp (transact_of_error State.reset h)

/-- R47: by induction on the script; whatever state a request leaves, the rest of the script is answered as from a
reset. -/
theorem runScript_eq_map (rs : List Request) (s : State) : runScript rs s = rs.map respond := by
  induction rs generalizing s with
  | nil => rfl
  | cons r rs ih => rw [runScript, rsp_transact, ih, List.map_cons]

/-- Settles O44, by induction on the script (`runScript_eq_map`). -/
theorem scriptResponsesAreIndependent : Obligations.ScriptResponsesAreIndependent := runScript_eq_map

/-- Settles O46: a control word that decodes completes (`exec_completes`), and every other is answered with one of the
two codes. -/
theorem everyRequestIsAnswered : Obligations.EveryRequestIsAnswered := by
  constructor
  · intro r
    cases h : decode r.ctl with
    | ok i =>
      obtain ⟨y, hy⟩ := respond_of_ok h
      exact ⟨_, hy⟩
    | error c => exact ⟨_, respond_of_error h⟩
  · intro s
    cases h : decode s.ctl with
    | ok i =>
      obtain ⟨y, hy⟩ := exec_completes i s
      exact .inl ⟨_, (step_of_ok h).trans hy⟩
    | error c =>
      cases c with
      | illOp => exact .inr (.inl (step_of_error h))
      | illWidth => exact .inr (.inr (step_of_error h))

theorem safe_iff_decodes (s : State) : s.Safe ↔ ∃ i, decode s.ctl = .ok i := by
  constructor
  · rintro ⟨s', h⟩
    obtain ⟨i, hi, -⟩ := step_next h
    exact ⟨i, hi⟩
  · rintro ⟨i, hi⟩
    obtain ⟨y, hy⟩ := exec_completes i s
    exact ⟨_, (step_of_ok hi).trans hy⟩

/-- R147: a request is legal exactly when its response has status OK. -/
theorem requestLegal_iff (r : Request) : requestLegal r = true ↔ ∃ y, respond r = some (.ok y) := by
  cases h : decode r.ctl with
  | ok i => simp [requestLegal, h, respond_of_ok h]
  | error c => simp [requestLegal, h, respond_of_error h]

/-- Settles O49: a step by its decoding (`safe_iff_decodes`), and a script request by request (`requestLegal_iff`), as
its responses are those of its single requests. -/
theorem safeExactlyWhenLegal : Obligations.SafeExactlyWhenLegal := by
  refine ⟨safe_iff_decodes, fun rs s => ?_⟩
  simp only [faultFree, List.all_eq_true, requestLegal_iff, runScript_eq_map, List.forall_mem_map]

/-! ### Latency -/

/-- Settles O51: the latency is cut off at its bound. -/
theorem latencyIsAtMostProportionalToTheWidth : Obligations.LatencyIsAtMostProportionalToTheWidth :=
  fun _ _ => Nat.min_le_right _ _

end Sys2Proof.Machine
end

section
/-! PROOFS. Every unit of the shifter is the machine word's own operation, and the laws of the family
(`spec/40_shift_rotate.md` R80 to R85). -/

namespace Sys2Proof

theorem Width.bits_pos (w : Width) : 0 < w.bits := by cases w <;> decide

theorem bit_zero {W : Nat} (i : Nat) : bit (0 : BitVec W) i = .zero := by simp [bit]

theorem Bit.or_zero (x : Bit) : x.or .zero = x := by cases x <;> rfl

theorem Bit.zero_or (x : Bit) : Bit.or .zero x = x := by cases x <;> rfl

namespace Machine

/-! ### Results and operands as numbers -/

/-- R58, R9: the port holds the number that the result is. -/
theorem resultPort_eq_ofNat {W : Nat} (Y : BitVec W) : resultPort Y = BitVec.ofNat 64 (uval Y) :=
  BitVec.eq_of_toNat_eq ((BitVec.toNat_setWidth _ _).trans (BitVec.toNat_ofNat _ _).symm)

theorem uval_operandA (W : Nat) (s : State) : uval (operandA W s) = s.a.toNat % 2 ^ W := BitVec.toNat_setWidth _ _

theorem uval_operandB (W : Nat) (s : State) : uval (operandB W s) = s.b.toNat % 2 ^ W := BitVec.toNat_setWidth _ _

/-- What an instruction answers when its result is Y, with y as the number n that Y stands for. -/
theorem exec_eq_ofNat {i : Instr} {s : State} {W n : Nat} {Y : BitVec W}
    (h : exec i s = .next (s.answer (.ok (resultPort Y)))) (hn : uval Y = n) :
    exec i s = .next { s with rsp := some (.ok (BitVec.ofNat 64 n)) } := by
  rw [h, resultPort_eq_ofNat, hn]
  rfl

variable {W : Nat} (A : BitVec W) (k m : Nat)

/-! ### The two shifts -/

/-- R80 at every amount: for W ≤ k no index reaches k. -/
theorem bit_shlVec_any {i : Nat} (hi : i < W) :
    bit (shlVec A k) i = if k ≤ i then bit A (i - k) else .zero := by
  by_cases hk : k < W
  · exact bit_shlVec A hk hi
  · rw [shlVec_of_ge A (by omega), if_neg (by omega), bit_zero]

/-- R81 at every amount: an index at W or above holds no Bit of A. -/
theorem bit_shrVec_any {i : Nat} (hi : i < W) : bit (shrVec A k) i = bit A (i + k) := by
  by_cases hk : k < W
  · rw [bit_shrVec A hk hi]
    split
    case isTrue => rfl
    case isFalse h => exact (bit_of_ge A (by omega)).symm
  · rw [shrVec_of_ge A (by omega), bit_of_ge A (by omega), bit_zero]

theorem shlVec_eq_shiftLeft : shlVec A k = A <<< k := by
  refine eq_of_bit_eq fun i hi => ?_
  rw [bit_shlVec_any A k hi]
  simp only [bit, BitVec.getLsbD_shiftLeft, decide_eq_true hi, Bool.true_and]
  by_cases hki : k ≤ i
  · simp [hki]
  · simp [hki, Nat.not_le.mp hki]

theorem shrVec_eq_ushiftRight : shrVec A k = A >>> k := by
  refine eq_of_bit_eq fun i hi => ?_
  rw [bit_shrVec_any A k hi, bit, bit, BitVec.getLsbD_ushiftRight, Nat.add_comm]

theorem uval_shlVec : uval (shlVec A k) = uval A * 2 ^ k % 2 ^ W := by
  rw [shlVec_eq_shiftLeft, uval, BitVec.toNat_shiftLeft, Nat.shiftLeft_eq, uval]

theorem uval_shrVec : uval (shrVec A k) = uval A / 2 ^ k := by
  rw [shrVec_eq_ushiftRight, uval, BitVec.toNat_ushiftRight, Nat.shiftRight_eq_div_pow, uval]

/-- Settles O21: `uval_shlVec` and `uval_shrVec` on the operand that the port `a` holds. -/
theorem shiftsAsNumbers : Obligations.ShiftsAsNumbers := by
  constructor
  · intro i hi s
    have hop : i.op = .shl := by
      revert i
      decide
    refine exec_eq_ofNat (exec_of_op hop s) ?_
    rw [uval_shlVec, uval_operandA]
    rfl
  · intro i hi s
    have hop : i.op = .shr := by
      revert i
      decide
    refine exec_eq_ofNat (exec_of_op hop s) ?_
    rw [uval_shrVec, uval_operandA]
    rfl

/-! ### The two rotations -/

section Rotations

variable {A k m}

/-- R83: a right rotation is by its amount modulo W. -/
theorem rorVec_congr (h : k ≡ m [MOD W]) : rorVec A k = rorVec A m := by
  rw [rorVec, rorVec, show k % W = m % W from h]

/-- A rotation to the left by k is one to the right by any n that completes k to a multiple of W. -/
theorem rolVec_eq_rorVec {n : Nat} (h : W ∣ k + n) : rolVec A k = rorVec A n := by
  refine eq_of_bit_eq fun j hj => ?_
  have hk : k % W ≤ W := (Nat.mod_lt k (Nat.zero_lt_of_lt hj)).le
  have hmod : W - k % W ≡ n [MOD W] := by
    refine Nat.ModEq.add_left_cancel' (k % W) ?_
    calc k % W + (W - k % W) = W := Nat.add_sub_of_le hk
      _ ≡ 0 [MOD W] := Nat.mod_self W
      _ ≡ k + n [MOD W] := ((Nat.modEq_zero_iff_dvd).mpr h).symm
      _ ≡ k % W + n [MOD W] := ((Nat.mod_modEq k W).add_right n).symm
  rw [bit_rolVec A k hj, bit_rorVec A n hj, Nat.add_mod_mod, show (j + (W - k % W)) % W = (j + n) % W from
    hmod.add_left j]

end Rotations

/-- `W - k mod W` completes k to a multiple of W. -/
theorem dvd_add_sub_mod (hW : 0 < W) : W ∣ k + (W - k % W) := by
  have hle : k % W ≤ W := (Nat.mod_lt k hW).le
  have hk := Nat.div_add_mod k W
  exact ⟨k / W + 1, by rw [Nat.mul_add]; omega⟩

theorem rorVec_rorVec : rorVec (rorVec A k) m = rorVec A (k + m) := by
  refine eq_of_bit_eq fun i hi => ?_
  have hW : 0 < W := Nat.zero_lt_of_lt hi
  rw [bit_rorVec _ m hi, bit_rorVec _ k (Nat.mod_lt _ hW), bit_rorVec A _ hi]
  simp only [Nat.add_mod_mod, Nat.mod_add_mod]
  rw [Nat.add_assoc, Nat.add_comm m k]

theorem rorVec_of_dvd (h : W ∣ k) : rorVec A k = A := by
  refine eq_of_bit_eq fun i hi => ?_
  rw [bit_rorVec A k hi, Nat.mod_eq_zero_of_dvd h, Nat.add_zero, Nat.mod_eq_of_lt hi]

section Laws

variable (hW : 0 < W)
include hW

/-- R85 (c). -/
theorem rolVec_eq_rorVec_sub : rolVec A k = rorVec A (W - k % W) := rolVec_eq_rorVec (dvd_add_sub_mod k hW)

/-- R85 (c). -/
theorem rorVec_eq_rolVec_sub : rorVec A k = rolVec A (W - k % W) := by
  refine (rolVec_eq_rorVec ?_).symm
  rw [Nat.add_comm]
  exact dvd_add_sub_mod k hW

/-- R85 (a): the two amounts complete each other to a multiple of W. -/
theorem rorVec_rolVec : rorVec (rolVec A k) k = A := by
  rw [rolVec_eq_rorVec_sub A k hW, rorVec_rorVec, Nat.add_comm]
  exact rorVec_of_dvd A _ (dvd_add_sub_mod k hW)

/-- R85 (a). -/
theorem rolVec_rorVec : rolVec (rorVec A k) k = A := by
  rw [rolVec_eq_rorVec_sub _ k hW, rorVec_rorVec]
  exact rorVec_of_dvd A _ (dvd_add_sub_mod k hW)

/-- R85 (d). -/
theorem rolVec_rolVec : rolVec (rolVec A k) m = rolVec A (k + m) := by
  rw [rolVec_eq_rorVec_sub A k hW, rolVec_eq_rorVec_sub _ m hW, rorVec_rorVec]
  refine (rolVec_eq_rorVec ?_).symm
  rw [Nat.add_add_add_comm]
  exact Nat.dvd_add (dvd_add_sub_mod k hW) (dvd_add_sub_mod m hW)

end Laws

theorem rolVec_mod : rolVec A (k % W) = rolVec A k := by rw [rolVec, rolVec, Nat.mod_mod]

theorem rorVec_mod : rorVec A (k % W) = rorVec A k := rorVec_congr (Nat.mod_modEq k W)

theorem shlVec_zero : shlVec A 0 = A := by rw [shlVec_eq_shiftLeft, BitVec.shiftLeft_zero]

theorem shrVec_zero : shrVec A 0 = A := by rw [shrVec_eq_ushiftRight, BitVec.ushiftRight_zero]

theorem rorVec_zero : rorVec A 0 = A := rorVec_of_dvd A 0 (dvd_zero W)

theorem rolVec_zero : rolVec A 0 = A := (rolVec_eq_rorVec (dvd_zero W)).trans (rorVec_zero A)

/-- R85 (f). -/
theorem shlVec_shlVec : shlVec (shlVec A k) m = shlVec A (k + m) := by
  simp only [shlVec_eq_shiftLeft, BitVec.shiftLeft_add]

/-- R85 (f). -/
theorem shrVec_shrVec : shrVec (shrVec A k) m = shrVec A (k + m) := by
  simp only [shrVec_eq_ushiftRight, BitVec.shiftRight_add]

variable {k}

/-- R82: below k a left rotation holds the Bits that went out at the top, from k on it holds the shifted Bits. -/
theorem bit_rolVec_of_lt {j : Nat} (hk : k < W) (hj : j < W) :
    bit (rolVec A k) j = if k ≤ j then bit A (j - k) else bit A (j + (W - k)) := by
  rw [bit_rolVec A k hj, Nat.mod_eq_of_lt hk]
  split
  case isTrue h => rw [show j + (W - k) = j - k + W by omega, Nat.add_mod_right, Nat.mod_eq_of_lt (by omega)]
  case isFalse h => rw [Nat.mod_eq_of_lt (by omega)]

/-- R85 (g). -/
theorem bit_rolVec_eq_or {j : Nat} (hk : k < W) (hj : j < W) :
    bit (rolVec A k) j = (bit (shlVec A k) j).or (bit (shrVec A (W - k)) j) := by
  rw [bit_rolVec_of_lt A hk hj, bit_shlVec_any A k hj, bit_shrVec_any A _ hj]
  split
  case isTrue h => rw [bit_of_ge A (show W ≤ j + (W - k) by omega), Bit.or_zero]
  case isFalse h => rw [Bit.zero_or]

/-- Settles O22: the laws hold at every width above zero; a rotation to the left is one to the right by the amount that
completes it to W (`rolVec_eq_rorVec`), and the shifts are the machine word's own. -/
theorem shifterLaws : Obligations.ShifterLaws := by
  intro w _ x k m
  have hW : 0 < w.bits := w.bits_pos
  exact ⟨⟨rorVec_rolVec x k hW, rolVec_rorVec x k hW⟩, ⟨(rolVec_mod x k).symm, (rorVec_mod x k).symm⟩,
    ⟨rorVec_eq_rolVec_sub x k hW, rolVec_eq_rorVec_sub x k hW⟩, ⟨rolVec_rolVec x k m hW, rorVec_rorVec x k m⟩,
    fun hk => ⟨shlVec_of_ge x hk, shrVec_of_ge x hk⟩, ⟨shlVec_shlVec x k m, shrVec_shrVec x k m⟩,
    fun _ hk j hj => bit_rolVec_eq_or x hk hj, shlVec_zero x, shrVec_zero x, rolVec_zero x, rorVec_zero x⟩

end Machine

end Sys2Proof
end

section
/-! PROOFS. The two ripples are exact after any number of positions, so the units are the machine word's own addition and
subtraction, and the laws of the family (`spec/41_add_sub.md` R90 to R98). -/

namespace Sys2Proof

variable {W : Nat}

/-! ### Values position by position -/

/-- R9: one more position adds its own Bit. -/
theorem uval_mod_two_pow_succ (v : BitVec W) (n : Nat) :
    uval v % 2 ^ (n + 1) = uval v % 2 ^ n + (bit v n).toNat * 2 ^ n := by
  rw [← sum_bits_eq_uval_mod, List.sum_range_succ, sum_bits_eq_uval_mod]

theorem uval_cons (x : Bit) (Y : BitVec W) : uval (BitVec.cons x.toBool Y) = uval Y + x.toNat * 2 ^ W := by
  rw [uval, BitVec.toNat_cons', Nat.shiftLeft_eq, Nat.add_comm, Bit.toNat_eq, uval]

namespace Machine

variable (A B C : BitVec W)

/-! ### The two ripples after n positions -/

/-- R90: by induction on the number of positions; the cell at position n adds with the weight `2^n`
(`fullAdder_value`). -/
theorem uval_addTo (n : Nat) :
    uval (addTo A B n).1 + (addTo A B n).2.toNat * 2 ^ n = uval A % 2 ^ n + uval B % 2 ^ n := by
  induction n with
  | zero => simp [addTo, ripple_zero, uval, Bit.toNat, Nat.mod_one]
  | succ n ih =>
    have hcell := fullAdder_value (bit A n) (bit B n) (addTo A B n).2
    rw [uval_mod_two_pow_succ, uval_mod_two_pow_succ, addTo, ripple_succ, uval_cons, ← addTo]
    linear_combination ih - 2 ^ n * hcell

/-- R93: by induction on the number of positions; the cell at position n subtracts with the weight `2^n`
(`fullSubtractor_value`). -/
theorem uval_subTo (n : Nat) :
    (uval (subTo A B n).1 : Int) - (subTo A B n).2.toNat * 2 ^ n =
      ((uval A % 2 ^ n : Nat) : Int) - ((uval B % 2 ^ n : Nat) : Int) := by
  induction n with
  | zero => simp [subTo, ripple_zero, uval, Bit.toNat, Nat.mod_one]
  | succ n ih =>
    have hcell := fullSubtractor_value (bit A n) (bit B n) (subTo A B n).2
    rw [uval_mod_two_pow_succ, uval_mod_two_pow_succ, subTo, ripple_succ, uval_cons, ← subTo]
    push_cast at ih ⊢
    linear_combination ih - 2 ^ n * hcell

/-- Settles O26, by `uval_addTo` and `uval_subTo`. -/
theorem ripplePrefixIsExact : Obligations.RipplePrefixIsExact :=
  fun _ A B n _ => ⟨uval_addTo A B n, uval_subTo A B n⟩

/-! ### The results as numbers -/

/-- R90: the carry out of the last position has the weight `2^W` and is dropped. -/
theorem uval_addVec : uval (addVec A B) = (uval A + uval B) % 2 ^ W := by
  have h := uval_addTo A B W
  rw [Nat.mod_eq_of_lt (uval_lt A), Nat.mod_eq_of_lt (uval_lt B)] at h
  rw [← h, Nat.add_mul_mod_self_right]
  exact (Nat.mod_eq_of_lt (uval_lt (addVec A B))).symm

/-- R93: the borrow out of the last position has the weight `2^W` and is dropped. -/
theorem uval_subVec : (uval (subVec A B) : Int) = ((uval A : Int) - uval B) % 2 ^ W := by
  have h := uval_subTo A B W
  rw [Nat.mod_eq_of_lt (uval_lt A), Nat.mod_eq_of_lt (uval_lt B)] at h
  rw [← h, Int.sub_mul_emod_self_right]
  exact (Int.emod_eq_of_lt (Int.natCast_nonneg _) (mod_cast uval_lt (subVec A B))).symm

/-- R97: the ripple-carry adder is the machine word's addition. -/
theorem addVec_eq_add : addVec A B = A + B :=
  BitVec.eq_of_toNat_eq ((uval_addVec A B).trans (BitVec.toNat_add A B).symm)

/-- R97: the ripple-borrow subtractor is the machine word's subtraction, as the difference and B add up to A and the
borrow's weight `2^W`. -/
theorem subVec_eq_sub : subVec A B = A - B := by
  have h := uval_subTo A B W
  rw [Nat.mod_eq_of_lt (uval_lt A), Nat.mod_eq_of_lt (uval_lt B), ← subVec] at h
  have hsum : uval (subVec A B) + uval B = uval A + (subTo A B W).2.toNat * 2 ^ W := by
    zify
    linear_combination h
  refine eq_sub_of_add_eq (BitVec.eq_of_toNat_eq ?_)
  calc (subVec A B + B).toNat = (uval (subVec A B) + uval B) % 2 ^ W := BitVec.toNat_add _ _
    _ = uval A := by rw [hsum, Nat.add_mul_mod_self_right, Nat.mod_eq_of_lt (uval_lt A)]

/-- Settles O27: `uval_addVec` and `uval_subVec` on the operands that the ports hold. -/
theorem addAndSubtractAsNumbers : Obligations.AddAndSubtractAsNumbers := by
  constructor
  · intro i hi s
    have hop : i.op = .add := by
      revert i
      decide
    refine exec_eq_ofNat (exec_of_op hop s) ?_
    rw [uval_addVec, uval_operandA, uval_operandB]
  · intro i hi s
    have hop : i.op = .sub := by
      revert i
      decide
    rw [← uval_operandA, ← uval_operandB, ← uval_subVec, BitVec.ofInt_natCast]
    exact exec_eq_ofNat (exec_of_op hop s) rfl

/-! ### The laws -/

theorem ofBits_not_eq : ofBits W (fun j => (bit A j).not) = ~~~A := by
  refine eq_of_bit_eq fun i hi => ?_
  rw [bit_ofBits _ hi, bit, bit, BitVec.getLsbD_not, decide_eq_true hi, Bool.true_and]
  cases A.getLsbD i <;> rfl

/-- Settles O28: with both units the machine word's own, the laws are those of its ring; (g) is two's complement by
NOT and one. -/
theorem adderLaws : Obligations.AdderLaws := by
  intro w _ x y z
  simp only [addVec_eq_add, subVec_eq_sub, ofBits_not_eq]
  refine ⟨by ring, by ring, ⟨by ring, by ring, by ring⟩, ⟨by ring, by ring⟩, by ring, by ring, ?_, trivial, trivial⟩
  rw [BitVec.sub_eq_add_neg, BitVec.neg_eq_not_add, BitVec.add_assoc]
  rfl

/-! ### The signed reading -/

/-- R29: the top Bit has negative weight. -/
theorem sval_eq_toInt : sval A = A.toInt := by
  rw [BitVec.toInt_eq_msb_cond, BitVec.msb_eq_getLsbD_last, sval, bit]
  cases A.getLsbD (W - 1) <;> simp [uval]

/-- Settles O29: both units are the machine word's own, whose signed value wraps. -/
theorem signedReadingOfAddAndSubtract : Obligations.SignedReadingOfAddAndSubtract := by
  intro w _ x y
  simp only [sval_eq_toInt, addVec_eq_add, subVec_eq_sub]
  exact ⟨trivial, BitVec.toInt_add x y, BitVec.toInt_sub⟩

end Machine

end Sys2Proof
end

section
/-! PROOFS. The laws of the counts and the reversal (`spec/42_popcount_reverse.md` R104). -/

namespace Sys2Proof.Machine

variable {W : Nat}

/-! ### Comparing counts -/

/-- A vector holds the Bit x at least as often as another one whose positions of x can be sent to its own, no two to
the same. -/
theorem countTo_le_countTo {x : Bit} {A B : BitVec W} (f : Nat → Nat)
    (hmaps : ∀ j, j < W → bit B j = x → f j < W ∧ bit A (f j) = x)
    (hinj : ∀ i j, i < W → bit B i = x → j < W → bit B j = x → f i = f j → i = j) :
    countTo x B W ≤ countTo x A W := by
  have hcard : ∀ V : BitVec W, countTo x V W = ((Finset.range W).filter fun j => bit V j = x).card := fun V => by
    rw [countTo_eq_countP, ← Nat.count_eq_card_filter_range, Nat.count]
  rw [hcard, hcard]
  refine Finset.card_le_card_of_injOn f (fun j hj => ?_) (fun i hi j hj => ?_)
  · simp only [Finset.coe_filter, Finset.mem_range, Set.mem_ofPred_eq] at hj ⊢
    exact hmaps j hj.1 hj.2
  · simp only [Finset.coe_filter, Finset.mem_range, Set.mem_ofPred_eq] at hi hj
    exact hinj i j hi.1 hi.2 hj.1 hj.2

variable (x : Bit) (A : BitVec W) (k : Nat)

/-! ### Reversal -/

/-- R104 (a). -/
theorem revVec_revVec : revVec (revVec A) = A := by
  refine eq_of_bit_eq fun i hi => ?_
  rw [bit_revVec _ hi, bit_revVec A (by omega), Nat.sub_sub_self (by omega)]

theorem countTo_revVec_le : countTo x (revVec A) W ≤ countTo x A W := by
  refine countTo_le_countTo (fun j => W - 1 - j) (fun j hj h => ?_) (by omega)
  rw [bit_revVec A hj] at h
  exact ⟨by omega, h⟩

/-- R104 (b): reversing cannot make a count larger, in either direction. -/
theorem countTo_revVec : countTo x (revVec A) W = countTo x A W := by
  refine (countTo_revVec_le x A).antisymm ?_
  calc countTo x A W = countTo x (revVec (revVec A)) W := by rw [revVec_revVec]
    _ ≤ countTo x (revVec A) W := countTo_revVec_le x (revVec A)

/-- R104 (e). -/
theorem revVec_shlVec : revVec (shlVec A k) = shrVec (revVec A) k := by
  refine eq_of_bit_eq fun j hj => ?_
  rw [bit_revVec _ hj, bit_shlVec_any A k (by omega), bit_shrVec_any _ k hj]
  split
  case isTrue h => rw [bit_revVec A (by omega), Nat.sub_right_comm, Nat.sub_add_eq, Nat.sub_right_comm]
  case isFalse h => rw [bit_of_ge _ (by omega)]

/-- R104 (e), from the other side by R104 (a). -/
theorem revVec_shrVec : revVec (shrVec A k) = shlVec (revVec A) k := by
  rw [← revVec_revVec (shlVec (revVec A) k), revVec_shlVec, revVec_revVec]

/-- R104 (d): going down by `k mod W` from the mirrored index, round the end where needed, mirrors going up from the
index itself. -/
theorem revVec_rolVec : revVec (rolVec A k) = rorVec (revVec A) k := by
  refine eq_of_bit_eq fun j hj => ?_
  have hr : k % W < W := Nat.mod_lt k (Nat.zero_lt_of_lt hj)
  rw [bit_revVec _ hj, ← rolVec_mod, bit_rolVec_of_lt A hr (by omega), bit_rorVec _ k hj,
    bit_revVec A (Nat.mod_lt _ (Nat.zero_lt_of_lt hj))]
  split
  case isTrue h => rw [Nat.mod_eq_of_lt (show j + k % W < W by omega), Nat.sub_add_eq]
  case isFalse h =>
    have hwrap : (j + k % W) % W = j + k % W - W := by
      rw [Nat.mod_eq_sub_mod (show W ≤ j + k % W by omega), Nat.mod_eq_of_lt (by omega)]
    rw [hwrap]
    exact congrArg (bit A) (by omega)

/-- R104 (d), from the other side by R104 (a). -/
theorem revVec_rorVec : revVec (rorVec A k) = rolVec (revVec A) k := by
  rw [← revVec_revVec (rolVec (revVec A) k), revVec_rolVec, revVec_revVec]

/-! ### Counts of rotated and shifted words -/

theorem countTo_rorVec_le : countTo x (rorVec A k) W ≤ countTo x A W := by
  refine countTo_le_countTo (fun i => (i + k % W) % W) (fun i hi h => ?_) (fun i j hi _ hj _ h => ?_)
  · rw [bit_rorVec A k hi] at h
    exact ⟨Nat.mod_lt _ (Nat.zero_lt_of_lt hi), h⟩
  · exact (Nat.ModEq.add_right_cancel' (k % W) h).eq_of_lt_of_lt hi hj

section Rotate

variable (hW : 0 < W)
include hW

/-- R104 (c): a rotation cannot make a count larger, and neither can the rotation back. -/
theorem countTo_rorVec : countTo x (rorVec A k) W = countTo x A W := by
  refine (countTo_rorVec_le x A k).antisymm ?_
  calc countTo x A W = countTo x (rorVec (rorVec A k) (W - k % W)) W := by
        rw [← rolVec_eq_rorVec_sub _ k hW, rolVec_rorVec A k hW]
    _ ≤ countTo x (rorVec A k) W := countTo_rorVec_le x _ _

theorem countTo_rolVec : countTo x (rolVec A k) W = countTo x A W := by
  rw [rolVec_eq_rorVec_sub A k hW, countTo_rorVec x A _ hW]

end Rotate

/-- R104 (f): each One of the result is one of the operand, k positions down. -/
theorem countTo_shlVec_le : countTo .one (shlVec A k) W ≤ countTo .one A W := by
  have hone : ∀ j, j < W → bit (shlVec A k) j = .one → k ≤ j ∧ bit A (j - k) = .one := fun j hj h => by
    rw [bit_shlVec_any A k hj] at h
    split at h
    case isTrue hk => exact ⟨hk, h⟩
    case isFalse => cases h
  refine countTo_le_countTo (fun j => j - k) (fun j hj h => ?_) (fun i j hi hbi hj hbj h => ?_)
  · exact ⟨by omega, (hone j hj h).2⟩
  · have hki := (hone i hi hbi).1
    have hkj := (hone j hj hbj).1
    omega

/-- R104 (f), by mirroring a shift to the left. -/
theorem countTo_shrVec_le : countTo .one (shrVec A k) W ≤ countTo .one A W := by
  have hmirror := countTo_shlVec_le (revVec A) k
  rwa [← revVec_shrVec, countTo_revVec, countTo_revVec] at hmirror

theorem uval_cnt1Vec (h : W ≤ 64) : uval (cnt1Vec A) = countTo .one A W := uval_vec_countTo .one A h

/-- Settles O34: the laws hold at every width from one position to 64. -/
theorem countAndReversalLaws : Obligations.CountAndReversalLaws := by
  intro w _ x k
  have hW : 0 < w.bits := w.bits_pos
  refine ⟨revVec_revVec x, ⟨?_, ?_⟩, ⟨?_, ?_⟩, ⟨revVec_rolVec x k, revVec_rorVec x k⟩,
    ⟨revVec_shlVec x k, revVec_shrVec x k⟩, ?_, ?_⟩
  · rw [cnt1Vec, countTo_revVec, cnt1Vec]
  · rw [cnt0Vec, countTo_revVec, cnt0Vec]
  · rw [cnt1Vec, countTo_rolVec .one x k hW, cnt1Vec]
  · rw [cnt1Vec, countTo_rorVec .one x k hW, cnt1Vec]
  · rw [uval_cnt1Vec _ w.bits_le, uval_cnt1Vec x w.bits_le]
    exact countTo_shlVec_le x k
  · rw [uval_cnt1Vec _ w.bits_le, uval_cnt1Vec x w.bits_le]
    exact countTo_shrVec_le x k

end Sys2Proof.Machine
end

section
/-! PROOFS. The IEEE-754 field view: splitting and joining a word, the classes and the values, and the conversions
that keep them (`spec/43_ieee754.md` R114 to R120). -/

namespace Sys2Proof

theorem Bit.toNat_injective : Function.Injective Bit.toNat := by
  intro x y
  cases x <;> cases y <;> decide

/-- R8, R9: the more significant part counts by the width of the other. -/
theorem uval_concat {m n : Nat} (u : BitVec m) (v : BitVec n) : uval (concat u v) = uval u * 2 ^ n + uval v := by
  rw [concat, uval, BitVec.toNat_append, ← Nat.shiftLeft_add_eq_or_of_lt v.isLt, Nat.shiftLeft_eq, uval, uval]

namespace Machine

variable (φ : FloatFormat)

/-! ### Fields and numbers -/

section Fields

variable (v : BitVec φ.bits)

theorem FloatFormat.fields_e : (φ.fields v).e = uval v / 2 ^ φ.F % 2 ^ φ.E := by
  exact (BitVec.extractLsb'_toNat _ _ _).trans (by rw [Nat.shiftRight_eq_div_pow, uval])

theorem FloatFormat.fields_f : (φ.fields v).f = uval v % 2 ^ φ.F := by
  exact (BitVec.extractLsb'_toNat _ _ _).trans (by rw [Nat.shiftRight_zero, uval])

theorem FloatFormat.fields_e_lt : (φ.fields v).e < 2 ^ φ.E := uval_lt _

theorem FloatFormat.fields_f_lt : (φ.fields v).f < 2 ^ φ.F := uval_lt _

/-- R115: the sign is the Bit above the low `E + F` positions, and the two other fields share out those. -/
theorem FloatFormat.uval_eq_fields :
    uval v = (φ.fields v).s.toNat * 2 ^ (φ.E + φ.F) + (φ.fields v).e * 2 ^ φ.F + (φ.fields v).f := by
  have htop : uval v % 2 ^ (φ.E + φ.F + 1) = uval v :=
    Nat.mod_eq_of_lt ((uval_lt v).trans_eq (congrArg (2 ^ ·) (by rw [FloatFormat.bits, Nat.add_assoc, Nat.add_comm])))
  have hlow : uval v % 2 ^ (φ.E + φ.F) = (φ.fields v).f + 2 ^ φ.F * (φ.fields v).e := by
    rw [Nat.add_comm φ.E, Nat.pow_add, Nat.mod_mul, φ.fields_e, φ.fields_f]
  rw [uval_mod_two_pow_succ, hlow] at htop
  rw [← htop, FloatFormat.fields]
  ring

end Fields

section Pack

variable {φ} {x : FloatFields}

theorem FloatFormat.inRange_iff : φ.inRange x = true ↔ x.e < 2 ^ φ.E ∧ x.f < 2 ^ φ.F := by
  simp [FloatFormat.inRange]

theorem FloatFormat.uval_pack (h : φ.inRange x = true) :
    uval (φ.pack x) = x.s.toNat * 2 ^ (φ.E + φ.F) + x.e * 2 ^ φ.F + x.f := by
  obtain ⟨he, hf⟩ := FloatFormat.inRange_iff.mp h
  have hs : x.s.toNat < 2 ^ 1 := by cases x.s <;> decide
  rw [FloatFormat.pack, uval_concat, uval_concat, uval_vec, uval_vec, uval_vec, Nat.mod_eq_of_lt he,
    Nat.mod_eq_of_lt hf, Nat.mod_eq_of_lt hs]
  ring

theorem FloatFormat.inRange_fields (v : BitVec φ.bits) : φ.inRange (φ.fields v) = true :=
  FloatFormat.inRange_iff.mpr ⟨φ.fields_e_lt v, φ.fields_f_lt v⟩

theorem FloatFormat.pack_fields (v : BitVec φ.bits) : φ.pack (φ.fields v) = v :=
  BitVec.eq_of_toNat_eq ((FloatFormat.uval_pack (φ.inRange_fields v)).trans (φ.uval_eq_fields v).symm)

/-- R115: the fields of a joined triple are read off its number, the sign last, from what the other two leave. -/
theorem FloatFormat.fields_pack (h : φ.inRange x = true) : φ.fields (φ.pack x) = x := by
  obtain ⟨he, hf⟩ := FloatFormat.inRange_iff.mp h
  have hnum := FloatFormat.uval_pack h
  have hsplit : uval (φ.pack x) = (x.s.toNat * 2 ^ φ.E + x.e) * 2 ^ φ.F + x.f := by
    rw [hnum]
    ring
  have hfe : (φ.fields (φ.pack x)).e = x.e := by
    rw [φ.fields_e, hsplit, Nat.mul_comm _ (2 ^ φ.F), Nat.mul_add_div (Nat.two_pow_pos _), Nat.div_eq_of_lt hf,
      Nat.add_zero, Nat.mul_comm, Nat.mul_add_mod, Nat.mod_eq_of_lt he]
  have hff : (φ.fields (φ.pack x)).f = x.f := by
    rw [φ.fields_f, hsplit, Nat.mul_comm, Nat.mul_add_mod, Nat.mod_eq_of_lt hf]
  have hfs : (φ.fields (φ.pack x)).s = x.s := by
    have hboth := (φ.uval_eq_fields (φ.pack x)).symm.trans hnum
    rw [hfe, hff] at hboth
    exact Bit.toNat_injective (Nat.eq_of_mul_eq_mul_right (Nat.two_pow_pos _)
      (Nat.add_right_cancel (Nat.add_right_cancel hboth)))
  calc φ.fields (φ.pack x) = ⟨(φ.fields (φ.pack x)).s, (φ.fields (φ.pack x)).e, (φ.fields (φ.pack x)).f⟩ := rfl
    _ = x := by rw [hfs, hfe, hff]

end Pack

/-- Settles O37: for every format, a word and the triple of its fields stand for the same number (`uval_eq_fields`,
`uval_pack`). -/
theorem floatFieldsSplitAndJoin : Obligations.FloatFieldsSplitAndJoin := fun φ _ =>
  ⟨fun v => ⟨φ.inRange_fields v, φ.pack_fields v, φ.uval_eq_fields v⟩, fun _ => FloatFormat.fields_pack⟩

/-! ### Classes -/

section Classes

variable {φ} {v : BitVec φ.bits}

theorem FloatFormat.classOf_of_e_zero (h : (φ.fields v).e = 0) :
    φ.classOf v = if (φ.fields v).f = 0 then .zero else .subnormal := if_pos h

theorem FloatFormat.classOf_of_e_max (h0 : (φ.fields v).e ≠ 0) (h : (φ.fields v).e = 2 ^ φ.E - 1) :
    φ.classOf v = if (φ.fields v).f = 0 then .infinity else .nan := (if_neg h0).trans (if_pos h)

theorem FloatFormat.classOf_of_e_between (h0 : (φ.fields v).e ≠ 0) (h : (φ.fields v).e ≠ 2 ^ φ.E - 1) :
    φ.classOf v = .normal := (if_neg h0).trans (if_neg h)

/-- R116: the lowest and the highest exponent field are split by the fraction, and all between are normal; the three
ranges are disjoint where there is an exponent bit. -/
theorem FloatFormat.classOf_iff (hE : 1 ≤ φ.E) :
    (φ.classOf v = .zero ↔ (φ.fields v).e = 0 ∧ (φ.fields v).f = 0) ∧
    (φ.classOf v = .subnormal ↔ (φ.fields v).e = 0 ∧ (φ.fields v).f ≠ 0) ∧
    (φ.classOf v = .normal ↔ 1 ≤ (φ.fields v).e ∧ (φ.fields v).e ≤ 2 ^ φ.E - 2) ∧
    (φ.classOf v = .infinity ↔ (φ.fields v).e = 2 ^ φ.E - 1 ∧ (φ.fields v).f = 0) ∧
    (φ.classOf v = .nan ↔ (φ.fields v).e = 2 ^ φ.E - 1 ∧ (φ.fields v).f ≠ 0) := by
  have htwo : 2 ≤ 2 ^ φ.E := Nat.le_self_pow (by omega) 2
  have hlt := φ.fields_e_lt v
  by_cases h0 : (φ.fields v).e = 0
  · have hmax : ¬ 0 = 2 ^ φ.E - 1 := by omega
    by_cases hf : (φ.fields v).f = 0 <;> simp [FloatFormat.classOf_of_e_zero h0, h0, hf, hmax]
  by_cases hmax : (φ.fields v).e = 2 ^ φ.E - 1
  · by_cases hf : (φ.fields v).f = 0 <;> simp [FloatFormat.classOf_of_e_max h0 hmax, hf, hmax] <;> omega
  · have hbetween : 1 ≤ (φ.fields v).e ∧ (φ.fields v).e ≤ 2 ^ φ.E - 2 := by omega
    simp [FloatFormat.classOf_of_e_between h0 hmax, h0, hmax, hbetween]

end Classes

/-- Settles O38: both formats have exponent bits. -/
theorem floatClassesByFields : Obligations.FloatClassesByFields := by
  have hE : ∀ φ ∈ [binary32, binary64], 1 ≤ φ.E := by decide
  exact fun φ hφ _ => FloatFormat.classOf_iff (hE φ hφ)

/-! ### Values -/

/-- R118: the sign of a pattern as a factor. -/
def signFactor (s : Bit) : ℚ := if s = .zero then 1 else -1

/-- R118: the scaled number, whether its power of two is one or divides. -/
theorem signedScaled_eq (s : Bit) (m : Nat) (p : Int) : signedScaled s m p = signFactor s * m * 2 ^ p := by
  have hscaled : (if 0 ≤ p then ((m * 2 ^ p.toNat : Nat) : ℚ) else mkRat m (2 ^ (-p).toNat)) = m * 2 ^ p := by
    split
    case isTrue h =>
      obtain ⟨n, rfl⟩ := Int.eq_ofNat_of_zero_le h
      simp
    case isFalse h =>
      obtain ⟨n, hn⟩ := Int.eq_ofNat_of_zero_le (show 0 ≤ -p by omega)
      obtain rfl : p = -n := by omega
      simp [Rat.mkRat_eq_div, div_eq_mul_inv]
  simp only [signedScaled, hscaled]
  cases s <;> simp [signFactor]

/-- R118: the fraction of a normal after its leading One, and the same number as a scaled integer. -/
theorem normal_scaled_eq (f F : Nat) (p : Int) :
    ((2 ^ F + f : Nat) : ℚ) * 2 ^ (p - F) = (1 + (f : ℚ) / 2 ^ F) * 2 ^ p := by
  have h2 : (2 : ℚ) ^ F ≠ 0 := by positivity
  rw [zpow_sub₀ two_ne_zero, zpow_natCast]
  push_cast
  field_simp

/-- Settles O39: the value is by definition one of five, and the two finite ones are scaled as `signedScaled_eq` and
`normal_scaled_eq` say. -/
theorem floatValuesByClass : Obligations.FloatValuesByClass := by
  intro φ _ v
  refine ⟨fun h => ?_, fun h => ?_, fun h => ?_, fun h => ?_, fun h => ?_⟩ <;>
    simp only [FloatFormat.value, h]
  · rw [signedScaled_eq, signFactor]
  · rw [signedScaled_eq, mul_assoc, normal_scaled_eq, ← mul_assoc, signFactor]

/-! ### The conversions -/

theorem exec_conversion_of_bits {i : Instr} {W : Nat} (h : (i.op = .fenc ∨ i.op = .fdec) ∧ i.bits = W) (s : State) :
    exec i s = .next (s.answer (.ok (resultPort (operandA W s)))) := by
  obtain ⟨hop, rfl⟩ := h
  exact exec_conversion hop s

theorem setWidth_resultPort {W : Nat} (Y : BitVec W) (h : W ≤ 64) : (resultPort Y).setWidth W = Y := by
  rw [resultPort, zext, BitVec.setWidth_setWidth_of_le Y h, BitVec.setWidth_eq]

/-- Settles O40: the low W wires of the result are those of the operand (`exec_conversion_of_bits`), so everything
read off them is the same. -/
theorem floatConversionsKeepTheFieldView : Obligations.FloatConversionsKeepTheFieldView := by
  constructor
  · intro i hi s
    have hconv : (i.op = .fenc ∨ i.op = .fdec) ∧ i.bits = 32 := by
      revert i
      decide
    have hy : (resultPort (operandA 32 s)).setWidth 32 = s.a.setWidth 32 := setWidth_resultPort _ (by decide)
    refine ⟨_, exec_conversion_of_bits hconv s, ?_⟩
    rw [hy]
    exact ⟨rfl, rfl, rfl, rfl, rfl⟩
  · intro i hi s
    have hconv : (i.op = .fenc ∨ i.op = .fdec) ∧ i.bits = 64 := by
      revert i
      decide
    have hy : resultPort (operandA 64 s) = s.a := by
      rw [resultPort, operandA, zext, BitVec.setWidth_eq, BitVec.setWidth_eq]
    refine ⟨_, exec_conversion_of_bits hconv s, ?_⟩
    rw [hy]
    exact ⟨rfl, rfl, rfl, rfl, rfl⟩

end Machine

end Sys2Proof
end

section
/-! PROOFS. Written lines, results fed back at the ports, and the width of a result (`spec/30_encoding.md` sections 2
and 5). -/

namespace Sys2Proof

/-! ### What a well-formed line holds -/

section WellFormed

variable {l : Line}

theorem Line.wellFormed_iff : l.wellFormed = true ↔ l.a < 2 ^ l.instr.bits ∧ l.bFits = true := by
  simp [Line.wellFormed, Instr.wellFormed_eq_true, Line.aFits]

theorem Line.b_of_operand (h : l.bFits = true) (hop : l.instr.op.bPort = .operand) :
    ∃ n, l.b = some n ∧ n < 2 ^ l.instr.bits := by
  cases hb : l.b with
  | none => simp [Line.bFits, hop, hb] at h
  | some n => exact ⟨n, rfl, by simpa [Line.bFits, hop, hb] using h⟩

theorem Line.b_of_amount (h : l.bFits = true) (hop : l.instr.op.bPort = .amount) :
    ∃ k, l.b = some k ∧ k < 2 ^ 64 := by
  cases hb : l.b with
  | none => simp [Line.bFits, hop, hb] at h
  | some k => exact ⟨k, rfl, by simpa [Line.bFits, hop, hb] using h⟩

theorem Line.b_of_unread (h : l.bFits = true) (hop : l.instr.op.bPort = .unread) : l.b = none := by
  cases hb : l.b with
  | none => rfl
  | some n => simp [Line.bFits, hop, hb] at h

end WellFormed

/-- R68: a literal of at most W wires is read back from the low W wires of a port. -/
theorem uval_setWidth_ofNat {W n : Nat} (hW : W ≤ 64) (hn : n < 2 ^ W) :
    uval ((BitVec.ofNat 64 n).setWidth W) = n := by
  rw [BitVec.setWidth_ofNat_of_le hW]
  exact (uval_vec W n).trans (Nat.mod_eq_of_lt hn)

namespace Machine

/-- Settles O55: the control word is the cell of the instruction (`decode_encode`), and each literal fits the wires
that the operation reads (`uval_setWidth_ofNat`). -/
theorem writtenLineRunsWithItsLiterals : Obligations.WrittenLineRunsWithItsLiterals := by
  intro l s h
  obtain ⟨ha, hb⟩ := Line.wellFormed_iff.mp h
  have hW : l.instr.bits ≤ 64 := Width.bits_le _
  have hdecode : decode l.request.ctl = .ok l.instr := decode_encode l.instr
  refine ⟨hdecode, uval_setWidth_ofNat hW ha, fun hop => ?_, fun hop => ?_, Line.b_of_unread hb, step_of_ok hdecode⟩
  · obtain ⟨n, hn, hlt⟩ := Line.b_of_operand hb hop
    have hport : (s.present l.request).b = BitVec.ofNat 64 n := by simp [Line.request, hn]
    rw [hn, operandB, hport, uval_setWidth_ofNat hW hlt]
  · obtain ⟨k, hk, hlt⟩ := Line.b_of_amount hb hop
    have hport : (s.present l.request).b = BitVec.ofNat 64 k := by simp [Line.request, hk]
    rw [hk, amount, hport]
    exact congrArg some ((uval_vec 64 k).trans (Nat.mod_eq_of_lt hlt)).symm

/-! ### The wires above a result -/

theorem bit_resultPort_of_ge {W j : Nat} (Y : BitVec W) (h : W ≤ j) : bit (resultPort Y) j = .zero := by
  rw [resultPort, zext, bit, BitVec.getLsbD_setWidth, BitVec.getLsbD_of_ge Y j h, Bool.and_false]
  rfl

/-- R58, R105: the result of a count has 7 wires, every other one has W. -/
theorem bit_resultOf_of_ge {op : Op} {W j : Nat} (A B : BitVec W) (k : Nat)
    (h : (if op ∈ [Op.cnt1, .cnt0] then 7 else W) ≤ j) : bit (resultOf op A B k) j = .zero := by
  cases op with
  | cnt1 | cnt0 => exact bit_resultPort_of_ge (W := 7) _ h
  | shl | shr | rol | ror | add | sub | rev | fenc | fdec => exact bit_resultPort_of_ge (W := W) _ h

/-- Settles O16: the result is that of the operation (`exec_eq_resultOf`). -/
theorem resultIsZeroExtended : Obligations.ResultIsZeroExtended := by
  intro i s s' h
  rw [exec_eq_resultOf] at h
  cases h
  exact ⟨_, rfl, fun _ => bit_resultOf_of_ge _ _ _⟩

/-! ### Results at the ports -/

/-- R34, R63: the response to a request whose control word decodes, by the operation on the operands at its width. -/
theorem respond_eq_resultOf {r : Request} {i : Instr} (h : decode r.ctl = .ok i) :
    respond r = some (.ok (resultOf i.op (r.a.setWidth i.bits) (r.b.setWidth i.bits) r.b.toNat)) := by
  have hstep := (step_of_ok (s := State.reset.present r) h).trans (exec_eq_resultOf i _)
  rw [respond, transact_of_next hstep]
  rfl

theorem y_transact (r : Request) (s : State) : (transact r s).y = (respond r).bind Response.y? := by
  rw [State.y, rsp_transact]

/-- R55 to R57: the control word with the code of a legal operation and the code m of a width. -/
theorem decode_of_codes {op : Op} {m : Nat} {w : Width} (hw : widthOfCode m = some w) (hop : w ∈ op.legal) :
    ∃ i, decode (BitVec.ofNat 8 (16 * op.code + m)) = .ok i ∧ i.op = op ∧ i.width = w := by
  have hm : m < 5 := by
    by_contra hge
    rw [widthOfCode_reserved (Nat.not_lt.mp hge)] at hw
    cases hw
  have hcode : op.code < 12 := by cases op <;> decide
  have hctl : (BitVec.ofNat 8 (16 * op.code + m)).toNat = 16 * op.code + m := by
    rw [BitVec.toNat_ofNat, Nat.mod_eq_of_lt (by omega)]
  refine decode_of_legal ?_ ?_ hop
  · rw [hctl, show (16 * op.code + m) / 16 = op.code by omega, opOfCode_code]
  · rw [hctl, show (16 * op.code + m) % 16 = m by omega, hw]

theorem y_transact_of_codes {op : Op} {m : Nat} {w : Width} (hw : widthOfCode m = some w) (hop : w ∈ op.legal)
    (a b : Port) (s : State) :
    (transact ⟨BitVec.ofNat 8 (16 * op.code + m), a, b⟩ s).y =
      some (resultOf op (a.setWidth w.bits) (b.setWidth w.bits) b.toNat) := by
  obtain ⟨i, hi, rfl, rfl⟩ := decode_of_codes hw hop
  have hrespond := respond_eq_resultOf (r := ⟨BitVec.ofNat 8 (16 * i.op.code + m), a, b⟩) hi
  rw [y_transact, hrespond]
  rfl

/-- Two operations at one width, the second of which gives the first one's operand A back from its result Y. -/
theorem fed_back_undone {op op' : Op} {m : Nat} {w : Width} (hw : widthOfCode m = some w) (hop : w ∈ op.legal)
    (hop' : w ∈ op'.legal) {a b b' : Port} (s : State) (Y : BitVec w.bits)
    (hY : resultOf op (a.setWidth w.bits) (b.setWidth w.bits) b.toNat = resultPort Y)
    (hback : resultOf op' Y (b'.setWidth w.bits) b'.toNat = resultPort (a.setWidth w.bits)) :
    ∃ y, (transact ⟨BitVec.ofNat 8 (16 * op.code + m), a, b⟩ s).y = some y ∧
      (transact ⟨BitVec.ofNat 8 (16 * op'.code + m), y, b'⟩
        (transact ⟨BitVec.ofNat 8 (16 * op.code + m), a, b⟩ s)).y =
        some (BitVec.ofNat 64 (a.toNat % 2 ^ (4 * 2 ^ m))) := by
  refine ⟨resultPort Y, (y_transact_of_codes hw hop a b s).trans (congrArg some hY), ?_⟩
  have hport : resultPort (a.setWidth w.bits) = BitVec.ofNat 64 (a.toNat % 2 ^ (4 * 2 ^ m)) := by
    rw [resultPort_eq_ofNat, ← bits_of_widthOfCode hw]
    exact congrArg _ (BitVec.toNat_setWidth _ _)
  rw [y_transact_of_codes hw hop', setWidth_resultPort Y w.bits_le, hback, hport]

theorem widthOfCode_mem_WV {m : Nat} (h : m ∈ [0, 1, 2, 3, 4]) : ∃ w, widthOfCode m = some w ∧ w ∈ Config.WV := by
  simp only [List.mem_cons, List.not_mem_nil, or_false] at h
  obtain rfl | rfl | rfl | rfl | rfl := h <;> exact ⟨_, rfl, by decide⟩

theorem widthOfCode_mem_WU {m : Nat} (h : m ∈ [1, 2, 3, 4]) : ∃ w, widthOfCode m = some w ∧ w ∈ Config.WU := by
  simp only [List.mem_cons, List.not_mem_nil, or_false] at h
  obtain rfl | rfl | rfl | rfl := h <;> exact ⟨_, rfl, by decide⟩

/-- Settles O50: the second operation gives the operand back by the laws of its family, at the ports by
`fed_back_undone`. -/
theorem resultsFedBackAreUndone : Obligations.ResultsFedBackAreUndone := by
  refine ⟨fun m hm a b s => ?_, fun m hm a b s => ?_, fun m hm a b b' s => ?_⟩
  · obtain ⟨w, hw, hmem⟩ := widthOfCode_mem_WV hm
    exact fed_back_undone (op := .rol) (op' := .ror) hw hmem hmem s (rolVec (a.setWidth w.bits) b.toNat) rfl
      (congrArg resultPort (rorVec_rolVec _ _ w.bits_pos))
  · obtain ⟨w, hw, hmem⟩ := widthOfCode_mem_WU hm
    have hback : subVec (addVec (a.setWidth w.bits) (b.setWidth w.bits)) (b.setWidth w.bits) = a.setWidth w.bits := by
      rw [addVec_eq_add, subVec_eq_sub, add_sub_cancel_right]
    exact fed_back_undone (op := .add) (op' := .sub) hw hmem hmem s
      (addVec (a.setWidth w.bits) (b.setWidth w.bits)) rfl (congrArg resultPort hback)
  · obtain ⟨w, hw, hmem⟩ := widthOfCode_mem_WU hm
    exact fed_back_undone (op := .rev) (op' := .rev) hw hmem hmem s (revVec (a.setWidth w.bits)) rfl
      (congrArg resultPort (revVec_revVec _))

end Machine

end Sys2Proof
end

section
/-! PROOFS. The bit-level block and the word-wide one are the same function of a request, and so the response on the
ports stays coherent (`spec/10_state.md` R21, R32; `spec/41_add_sub.md` R97). -/

namespace Sys2Proof.Machine

/-! ### The units by word-wide arithmetic -/

section Units

variable {W : Nat} (A : BitVec W) (k : Nat)

theorem rolVec_eq_rotateLeft : rolVec A k = A.rotateLeft k := by
  refine eq_of_bit_eq fun j hj => ?_
  have hr : k % W < W := Nat.mod_lt k (Nat.zero_lt_of_lt hj)
  rw [← rolVec_mod, bit_rolVec_of_lt A hr hj]
  simp only [bit, BitVec.getLsbD_rotateLeft, decide_eq_true hj, Bool.true_and, cond_eq_ite, decide_eq_true_eq]
  split
  case isTrue h => rw [if_neg (by omega)]
  case isFalse h => rw [if_pos (by omega), Nat.add_comm]

theorem rorVec_eq_rotateRight : rorVec A k = A.rotateRight k := by
  refine eq_of_bit_eq fun j hj => ?_
  have hr : k % W < W := Nat.mod_lt k (Nat.zero_lt_of_lt hj)
  rw [bit_rorVec A k hj]
  simp only [bit, BitVec.getLsbD_rotateRight, decide_eq_true hj, Bool.true_and, cond_eq_ite, decide_eq_true_eq]
  split
  case isTrue h => rw [Nat.mod_eq_of_lt (show j + k % W < W by omega), Nat.add_comm]
  case isFalse h =>
    rw [Nat.mod_eq_sub_mod (show W ≤ j + k % W by omega), Nat.mod_eq_of_lt (show j + k % W - W < W by omega)]
    exact congrArg (fun i => Bit.ofBool (A.getLsbD i)) (by omega)

theorem revVec_eq_reverse : revVec A = A.reverse := by
  refine eq_of_bit_eq fun i hi => ?_
  rw [bit_revVec A hi, bit, bit, BitVec.getLsbD_reverse, BitVec.getMsbD, decide_eq_true hi, Bool.true_and]

/-- R100: the loop counts as the word-wide reference does. -/
theorem countTo_one_eq_countP : countTo .one A W = (List.range W).countP fun j => A.getLsbD j := by
  rw [countTo_eq_countP]
  refine List.countP_congr fun j _ => ?_
  rw [decide_eq_true_eq, bit]
  cases A.getLsbD j <;> decide

/-- R80: the reference writes out that amounts of W and more leave Zero. -/
theorem resultPort_shlVec : resultPort (shlVec A k) = if W ≤ k then 0 else (A <<< k).setWidth 64 := by
  split
  case isTrue h =>
    rw [shlVec_of_ge A h]
    exact BitVec.setWidth_zero _ _
  case isFalse => exact congrArg resultPort (shlVec_eq_shiftLeft A k)

/-- R81: the reference writes out that amounts of W and more leave Zero. -/
theorem resultPort_shrVec : resultPort (shrVec A k) = if W ≤ k then 0 else (A >>> k).setWidth 64 := by
  split
  case isTrue h =>
    rw [shrVec_of_ge A h]
    exact BitVec.setWidth_zero _ _
  case isFalse => exact congrArg resultPort (shrVec_eq_ushiftRight A k)

theorem uval_cnt0Vec (h : W ≤ 64) : uval (cnt0Vec A) = W - countTo .one A W := by
  rw [cnt0Vec, uval_vec_countTo .zero A h]
  exact Nat.eq_sub_of_add_eq' (countTo_one_add_countTo_zero A W)

theorem resultPort_cnt1Vec (h : W ≤ 64) :
    resultPort (cnt1Vec A) = BitVec.ofNat 64 ((List.range W).countP fun j => A.getLsbD j) := by
  rw [resultPort_eq_ofNat, uval_cnt1Vec A h, countTo_one_eq_countP]

theorem resultPort_cnt0Vec (h : W ≤ 64) :
    resultPort (cnt0Vec A) = BitVec.ofNat 64 (W - (List.range W).countP fun j => A.getLsbD j) := by
  rw [resultPort_eq_ofNat, uval_cnt0Vec A h, countTo_one_eq_countP]

end Units

/-- R32, R97: on words of the width of the instruction, each unit computes what the reference does. -/
theorem nativeResult_eq_resultOf (i : Instr) (a b : Port) :
    nativeResult i a b = resultOf i.op (a.setWidth i.bits) (b.setWidth i.bits) b.toNat := by
  have hW : i.bits ≤ 64 := i.width.bits_le
  simp only [nativeResult]
  generalize a.setWidth i.bits = A
  generalize b.setWidth i.bits = B
  cases i.op with
  | shl => exact (resultPort_shlVec A _).symm
  | shr => exact (resultPort_shrVec A _).symm
  | rol => exact (congrArg resultPort (rolVec_eq_rotateLeft A _)).symm
  | ror => exact (congrArg resultPort (rorVec_eq_rotateRight A _)).symm
  | add => exact (congrArg resultPort (addVec_eq_add A B)).symm
  | sub => exact (congrArg resultPort (subVec_eq_sub A B)).symm
  | cnt1 => exact (resultPort_cnt1Vec A hW).symm
  | cnt0 => exact (resultPort_cnt0Vec A hW).symm
  | rev => exact (congrArg resultPort (revVec_eq_reverse A)).symm
  | fenc => exact (congrArg resultPort (fencVec_eq A)).symm
  | fdec => exact (congrArg resultPort (fdecVec_eq A)).symm

/-! ### The table of the reference and the decoder -/

theorem find_allInstrs_encode (i : Instr) : allInstrs.find? (fun j => encode j == encode i) = some i := by
  cases i <;> rfl

theorem nativeResponse_of_ok {r : Request} {i : Instr} (h : decode r.ctl = .ok i) :
    nativeResponse r = .ok (nativeResult i r.a r.b) := by
  rw [nativeResponse, ← encode_of_decode h, find_allInstrs_encode]

/-- R64, R65: no row of the table has a control word that does not decode, and the ranges of the two codes are those
of `op`. -/
theorem nativeResponse_of_error {r : Request} {c : Illegal} (h : decode r.ctl = .error c) :
    nativeResponse r = .illegal c := by
  have hfind : allInstrs.find? (fun i => encode i == r.ctl) = none := by
    refine List.find?_eq_none.mpr fun i _ hi => ?_
    rw [← eq_of_beq hi, decode_encode] at h
    cases h
  have hrange : (r.ctl.toNat < 16 ∨ 192 ≤ r.ctl.toNat) ↔ decode r.ctl = .error .illOp := by
    rw [decode_eq_illOp_iff]
    omega
  rw [nativeResponse, hfind]
  simp only [hrange, h]
  cases c <;> rfl

/-- R32: the response to every request, legal or not, is that of the reference. -/
theorem respond_eq_nativeResponse (r : Request) : respond r = some (nativeResponse r) := by
  cases h : decode r.ctl with
  | ok i => rw [respond_eq_resultOf h, nativeResponse_of_ok h, nativeResult_eq_resultOf]
  | error c => rw [respond_of_error h, nativeResponse_of_error h]

/-- R30: a transaction leaves the request on the input ports. -/
theorem transact_request (r : Request) (s : State) : (transact r s).request = r := by
  cases h : decode r.ctl with
  | ok i =>
    obtain ⟨y, hy, -⟩ := transact_of_ok s h
    rw [hy, State.answer_request, State.present_request]
  | error c => rw [transact_of_error s h, State.answer_request, State.present_request]

/-- Settles O52: the input ports by `transact_request`, the response by `respond_eq_nativeResponse`. -/
theorem bitLevelBlockEqualsNativeBlock : Obligations.BitLevelBlockEqualsNativeBlock := by
  intro r s
  have hrsp := (rsp_transact r s).trans (respond_eq_nativeResponse r)
  obtain ⟨hctl, ha, hb⟩ := Request.mk.inj (transact_request r s)
  calc transact r s = ⟨(transact r s).ctl, (transact r s).a, (transact r s).b, (transact r s).rsp⟩ := rfl
    _ = ⟨r.ctl, r.a, r.b, some (nativeResponse r)⟩ := by rw [hctl, ha, hb, hrsp]

/-! ### Coherence -/

theorem State.coherent_of_rsp_eq_none {s : State} (h : s.rsp = none) : s.Coherent := fun r hr => by
  rw [h] at hr
  cases hr

theorem transact_coherent (r : Request) (s : State) : (transact r s).Coherent := fun q hq => by
  rw [rsp_transact, respond_eq_nativeResponse] at hq
  rw [transact_request, Option.some.inj hq]

/-- R21, R45: a step that answers is the transaction of the request on the ports. -/
theorem transact_request_of_next {s s' : State} (h : step s = .next s') : transact s.request s = s' :=
  transact_of_next ((step_congr (State.present_request s.request s)).trans h)

/-- Settles O53: after a step or a transaction the response is the reference's (`transact_coherent`), and presenting
or abandoning a request leaves none. -/
theorem stepsKeepTheResponseCoherent : Obligations.StepsKeepTheResponseCoherent := fun s _ =>
  ⟨fun _ h => transact_request_of_next h ▸ transact_coherent s.request s, fun r => transact_coherent r s,
    fun r => State.coherent_of_rsp_eq_none (s.present_rsp r), State.coherent_of_rsp_eq_none s.abandon_rsp⟩

/-- Settles O54: no response has been given at reset. -/
theorem resetIsCoherent : Obligations.ResetIsCoherent := State.coherent_of_rsp_eq_none rfl

end Sys2Proof.Machine
end
